-- ==== Sys2Proof/Word.lean ====
section
/-!
DEFINITION. The words of the machine: bytes, 32-bit register words and bus addresses, and the
72-bit operation word (spec/30_encoding.md R100).
-/

namespace Sys2Proof

/-- One byte: a memory cell, `SL_RDR`, `SL_TDR`, the byte of a frame. -/
abbrev Byte := BitVec 8

/-- One 32-bit word: a register, a bus address, the `DATA` group of an operation word. -/
abbrev Word := BitVec 32

/-- One operation word `T` of 72 bits (R100). -/
abbrev OpWord := BitVec 72

end Sys2Proof
end

