-- ==== Sys2Proof/Config.lean ====
section
/-!
DEFINITION. The launch parameters of the machine (spec/00_scope.md R5), the three address windows
they place (spec/20_memory.md R71), the agents a schedule names (R6), and the one free value of the
model: the schedule beyond the turns a state lists.
-/

namespace Sys2Proof

/-- The two channel roles (spec/41_transfer_engine.md R170). -/
inductive Role where
  | rx
  | tx
  deriving DecidableEq, Repr, Inhabited

/-- `ECHO_POLICY`: which of the two echo-controller variants is built (R260). -/
inductive EchoPolicy where
  | autonomous
  | cooperative
  deriving DecidableEq, Repr, Inhabited

/-- `TX_WAIT_MODE`: how `STX` tests that no transmit is in flight (R282). -/
inductive TxWaitMode where
  | flag
  | enbit
  deriving DecidableEq, Repr, Inhabited

/-- `ARB_POLICY`: the arbiter between the two channels (R177). -/
inductive ArbPolicy where
  | fixed
  | free
  deriving DecidableEq, Repr, Inhabited

/-- `IRQ_SLACK`: whether a less urgent context may still step while a more urgent interrupt is due
(R331). -/
inductive IrqSlack where
  | urgent
  | lax
  deriving DecidableEq, Repr, Inhabited

/-- The launch parameters (R5).  They are fixed for the life of the machine: no step changes them
(R384), and every statement over all states is a statement over all of them. -/
structure Params where
  echoPolicy  : EchoPolicy
  txWaitMode  : TxWaitMode
  rxCh        : Nat
  txCh        : Nat
  dmaBase     : Word
  slBase      : Word
  ramBase     : Word
  ramSize     : Nat
  rxCellAddr  : Word
  txCellAddr  : Word
  clkHz       : Nat
  arbPolicy   : ArbPolicy
  oreBlocksRx : Bool
  irqSlack    : IrqSlack
  deriving DecidableEq, Repr

namespace Params

/-- The defaults of R5.  `ECHO_POLICY` and `CLK_HZ` have no default there: `COOPERATIVE` and
8 000 000 are the model's (DESIGN CHOICE, log entry 2). -/
def standard : Params where
  echoPolicy  := .cooperative
  txWaitMode  := .flag
  rxCh        := 3
  txCh        := 2
  dmaBase     := 0x40020000#32
  slBase      := 0x40013800#32
  ramBase     := 0x20000000#32
  ramSize     := 0x4000
  rxCellAddr  := 0x20000000#32
  txCellAddr  := 0x20000004#32
  clkHz       := 8000000
  arbPolicy   := .fixed
  oreBlocksRx := false
  irqSlack    := .urgent

/-- The size of each of the two register windows (R71). -/
abbrev windowSize : Nat := 0x400

/-- `a` lies in the window of `size` bytes at `base`. -/
abbrev within (base : Word) (size : Nat) (a : Word) : Prop :=
  base.toNat ≤ a.toNat ∧ a.toNat < base.toNat + size

/-- The DMA window (R71). -/
abbrev inDma (p : Params) (a : Word) : Prop := within p.dmaBase windowSize a

/-- The serial-line window (R71). -/
abbrev inSl (p : Params) (a : Word) : Prop := within p.slBase windowSize a

/-- The RAM window (R71). -/
abbrev inRam (p : Params) (a : Word) : Prop := within p.ramBase p.ramSize a

/-- Two address ranges share no address. -/
abbrev disjoint (b1 : Word) (n1 : Nat) (b2 : Word) (n2 : Nat) : Prop :=
  b1.toNat + n1 ≤ b2.toNat ∨ b2.toNat + n2 ≤ b1.toNat

/-- The ranges of R5: channel numbers 1 to 7 and different, bases multiples of 4, cells inside RAM
and different, a positive clock, the three windows pairwise disjoint.  That each window ends inside
the 32-bit address space is read from R70 and R71 (DEDUCED, log entry 3). -/
abbrev Wf (p : Params) : Prop :=
  (1 ≤ p.rxCh ∧ p.rxCh ≤ 7) ∧ (1 ≤ p.txCh ∧ p.txCh ≤ 7) ∧ p.rxCh ≠ p.txCh ∧
  p.dmaBase.toNat % 4 = 0 ∧ p.slBase.toNat % 4 = 0 ∧
  p.dmaBase.toNat + windowSize ≤ 2 ^ 32 ∧ p.slBase.toNat + windowSize ≤ 2 ^ 32 ∧
  p.ramBase.toNat + p.ramSize ≤ 2 ^ 32 ∧
  p.inRam p.rxCellAddr ∧ p.inRam p.txCellAddr ∧ p.rxCellAddr ≠ p.txCellAddr ∧
  0 < p.clkHz ∧
  disjoint p.dmaBase windowSize p.slBase windowSize ∧
  disjoint p.dmaBase windowSize p.ramBase p.ramSize ∧
  disjoint p.slBase windowSize p.ramBase p.ramSize

/-- `n(c)`, the channel number of role `c` (R7). -/
def channel (p : Params) : Role → Nat
  | .rx => p.rxCh
  | .tx => p.txCh

/-- The address of the byte cell a role is bound to (R40). -/
def cellAddr (p : Params) : Role → Word
  | .rx => p.rxCellAddr
  | .tx => p.txCellAddr

end Params

/-- The lines of the `CPU`'s step (R332) that `LAX` may choose among. -/
inductive CpuPick where
  | enterDma
  | runDma
  | enterErr
  | runErr
  | runMain
  deriving DecidableEq, Repr, Inhabited

/-- One entry of a schedule: the agent (R6) that is given the next step.  The pick of a `CPU` turn
matters only with `IRQ_SLACK = LAX` (R331). -/
inductive Turn where
  | ch (c : Role)
  | slrx
  | sltx
  | cpu (pick : CpuPick)
  | host
  deriving DecidableEq, Repr, Inhabited

/-- The schedule where a state lists no further turn: a free value, one for each number of turns
already taken from it.  R6 and R380 fix no relative speed of the agents (log entry 5). -/
opaque Config.freeTurn : Nat → Turn

end Sys2Proof
end

