-- ==== Sys2Proof/Syntax.lean ====
section
/-!
DEFINITION. The operations of the machine: one constructor for each row of spec/opcode_table.json
(spec/30_encoding.md R107, R108).  Register addresses are not operands: the row names the register.
-/

namespace Sys2Proof

/-- An operation.  `rd…` and `wr…` are BUS operations (R102), the rest are CMD operations (R103). -/
inductive Instr where
  -- the DMA block, shared registers
  | rdDmaIsr
  | wrDmaIsr (w : Word)
  | rdDmaIfcr
  | wrDmaIfcr (w : Word)
  -- the DMA block, per-channel registers
  | rdCcrRx
  | wrCcrRx (w : Word)
  | rdCcrTx
  | wrCcrTx (w : Word)
  | rdCndtrRx
  | wrCndtrRx (w : Word)
  | rdCndtrTx
  | wrCndtrTx (w : Word)
  | rdCparRx
  | wrCparRx (w : Word)
  | rdCparTx
  | wrCparTx (w : Word)
  | rdCmarRx
  | wrCmarRx (w : Word)
  | rdCmarTx
  | wrCmarTx (w : Word)
  -- the serial line
  | rdSlCr1
  | wrSlCr1 (w : Word)
  | rdSlCr3
  | wrSlCr3 (w : Word)
  | rdSlBrr
  | wrSlBrr (w : Word)
  | rdSlIsr
  | wrSlIsr (w : Word)
  | rdSlIcr
  | wrSlIcr (w : Word)
  | rdSlRdr32
  | rdSlRdr8
  | wrSlRdr32 (w : Word)
  | wrSlRdr8 (b : Byte)
  | rdSlTdr32
  | rdSlTdr8
  | wrSlTdr32 (w : Word)
  | wrSlTdr8 (b : Byte)
  -- memory
  | rd8Mem (a : Word)
  | wr8Mem (a : Word) (b : Byte)
  -- commands
  | cfgLine (baud : Word)
  | init (baud : Word)
  | irqenDma
  | irqenErr
  | armRx
  | armTx (b : Byte)
  | disarmRx
  | disarmTx
  | clrtcRx
  | clrtcTx
  | davail
  | read
  | stx (b : Byte)
  | mloop
  deriving DecidableEq, Repr

/-- The registers of the two register windows (spec/10_state.md sections 2 and 3). -/
inductive Reg where
  | dmaIsr
  | dmaIfcr
  | ccr (c : Role)
  | cndtr (c : Role)
  | cpar (c : Role)
  | cmar (c : Role)
  | slCr1
  | slCr3
  | slBrr
  | slIsr
  | slIcr
  | slRdr
  | slTdr
  deriving DecidableEq, Repr

/-- Every register, once. -/
def Reg.all : List Reg :=
  [.dmaIsr, .dmaIfcr, .ccr .rx, .cndtr .rx, .cpar .rx, .cmar .rx, .ccr .tx, .cndtr .tx, .cpar .tx,
    .cmar .tx, .slCr1, .slCr3, .slBrr, .slIsr, .slIcr, .slRdr, .slTdr]

end Sys2Proof
end

