-- ==== Sys2Proof/WellFormed.lean ====
section
/-!
DEFINITION. Which operations are well formed.  Every operand but a memory address ranges over its
whole type; the address of `RD8_MEM` and `WR8_MEM` is "any address in RAM" (spec/30_encoding.md
R107), which depends on the launch parameters.
-/

namespace Sys2Proof

/-- The operand checks that the types of the operands do not make. -/
def Instr.wellFormed (p : Params) : Instr → Bool
  | .rd8Mem a => decide (p.inRam a)
  | .wr8Mem a _ => decide (p.inRam a)
  | _ => true

end Sys2Proof
end

