-- ==== Sys2Proof/Decode.lean ====
section
/-!
DEFINITION. The register addresses (spec/10_state.md sections 2 and 3), the decoder of operation
words, total on all 72-bit values (spec/30_encoding.md R101 to R109), and the encoder written from
the same tables.
-/

namespace Sys2Proof

namespace Params

/-- The address of a register (10_state.md, the tables of sections 2 and 3). -/
def regAddr (p : Params) : Reg → Word
  | .dmaIsr => p.dmaBase + 0x00#32
  | .dmaIfcr => p.dmaBase + 0x04#32
  | .ccr c => p.dmaBase + BitVec.ofNat 32 (0x08 + 20 * (p.channel c - 1))
  | .cndtr c => p.dmaBase + BitVec.ofNat 32 (0x0C + 20 * (p.channel c - 1))
  | .cpar c => p.dmaBase + BitVec.ofNat 32 (0x10 + 20 * (p.channel c - 1))
  | .cmar c => p.dmaBase + BitVec.ofNat 32 (0x14 + 20 * (p.channel c - 1))
  | .slCr1 => p.slBase + 0x00#32
  | .slCr3 => p.slBase + 0x08#32
  | .slBrr => p.slBase + 0x0C#32
  | .slIsr => p.slBase + 0x1C#32
  | .slIcr => p.slBase + 0x20#32
  | .slRdr => p.slBase + 0x24#32
  | .slTdr => p.slBase + 0x28#32

/-- The register whose address is `a`, if there is one. -/
def regAt (p : Params) (a : Word) : Option Reg :=
  Reg.all.find? fun r => p.regAddr r == a

end Params

/-- Why the decoder refuses a word (R109; the refusals X1 to X5 of spec/60_exceptions.md R322). -/
inductive DecodeError where
  /-- X1: reserved class, format, command code or must-be-zero field. -/
  | reservedEncoding
  /-- X2: a width that does not exist, or that the target does not take. -/
  | unsupportedWidth
  /-- X3: a 32-bit access at an address that is no multiple of 4. -/
  | misalignedAccess
  /-- X4: an address outside the three windows. -/
  | unmappedAccess
  /-- X5: an address of a register window that holds no register. -/
  | unimplementedRegister
  deriving DecidableEq, Repr

/-- `CTL = T[71:64]` (R100). -/
def ctlOf (t : OpWord) : BitVec 8 := t.extractLsb' 64 8

/-- `ADDR = T[63:32]` (R100). -/
def addrOf (t : OpWord) : Word := t.extractLsb' 32 32

/-- `DATA = T[31:0]` (R100). -/
def dataOf (t : OpWord) : Word := t.extractLsb' 0 32

/-- The low byte of `DATA`: the value of an 8-bit write, the byte argument of a command (R103,
R105). -/
def lowByte (w : Word) : Byte := w.extractLsb' 0 8

/-- `DATA[31:8]` is 0 (R103, R105). -/
def highZero (w : Word) : Bool := w.extractLsb' 8 24 == 0#24

/-- The 32-bit read of a register (R107). -/
def readOf : Reg → Instr
  | .dmaIsr => .rdDmaIsr
  | .dmaIfcr => .rdDmaIfcr
  | .ccr .rx => .rdCcrRx
  | .ccr .tx => .rdCcrTx
  | .cndtr .rx => .rdCndtrRx
  | .cndtr .tx => .rdCndtrTx
  | .cpar .rx => .rdCparRx
  | .cpar .tx => .rdCparTx
  | .cmar .rx => .rdCmarRx
  | .cmar .tx => .rdCmarTx
  | .slCr1 => .rdSlCr1
  | .slCr3 => .rdSlCr3
  | .slBrr => .rdSlBrr
  | .slIsr => .rdSlIsr
  | .slIcr => .rdSlIcr
  | .slRdr => .rdSlRdr32
  | .slTdr => .rdSlTdr32

/-- The 32-bit write of a register (R107). -/
def writeOf (w : Word) : Reg → Instr
  | .dmaIsr => .wrDmaIsr w
  | .dmaIfcr => .wrDmaIfcr w
  | .ccr .rx => .wrCcrRx w
  | .ccr .tx => .wrCcrTx w
  | .cndtr .rx => .wrCndtrRx w
  | .cndtr .tx => .wrCndtrTx w
  | .cpar .rx => .wrCparRx w
  | .cpar .tx => .wrCparTx w
  | .cmar .rx => .wrCmarRx w
  | .cmar .tx => .wrCmarTx w
  | .slCr1 => .wrSlCr1 w
  | .slCr3 => .wrSlCr3 w
  | .slBrr => .wrSlBrr w
  | .slIsr => .wrSlIsr w
  | .slIcr => .wrSlIcr w
  | .slRdr => .wrSlRdr32 w
  | .slTdr => .wrSlTdr32 w

/-- The 8-bit access of a register, for the two registers that take one (20_memory.md R74). -/
def byteAccessOf (write : Bool) (b : Byte) : Reg → Option Instr
  | .slRdr => some (if write then .wrSlRdr8 b else .rdSlRdr8)
  | .slTdr => some (if write then .wrSlTdr8 b else .rdSlTdr8)
  | _ => none

/-- An 8-bit access inside a register window (R106 and the paragraph under it): the register's own
address, `UnsupportedWidth` elsewhere within the four bytes of a register or at a register that
takes no 8-bit access, `UnimplementedRegister` where there is none. -/
def decodeByteReg (p : Params) (write : Bool) (a data : Word) : Except DecodeError Instr :=
  match p.regAt (a &&& ~~~3#32) with
  | none => .error .unimplementedRegister
  | some r =>
    match (if a = p.regAddr r then byteAccessOf write (lowByte data) r else none) with
    | some i => .ok i
    | none => .error .unsupportedWidth

/-- A 32-bit access inside a register window (R106). -/
def decodeWordReg (p : Params) (write : Bool) (a data : Word) : Except DecodeError Instr :=
  match p.regAt a with
  | none => .error .unimplementedRegister
  | some r => .ok (if write then writeOf data r else readOf r)

/-- Decode of a BUS word from the width check on (R106), the first line that applies deciding. -/
def decodeBus (p : Params) (write : Bool) (sz : BitVec 2) (a data : Word) :
    Except DecodeError Instr :=
  if sz = 1#2 ∨ sz = 3#2 then .error .unsupportedWidth
  else if sz = 0#2 ∧ write = true ∧ highZero data = false then .error .reservedEncoding
  else if ¬ (p.inDma a ∨ p.inSl a ∨ p.inRam a) then .error .unmappedAccess
  else if sz = 2#2 ∧ a.extractLsb' 0 2 ≠ 0#2 then .error .misalignedAccess
  else if p.inRam a then
    if sz = 0#2 then .ok (if write then .wr8Mem a (lowByte data) else .rd8Mem a)
    else .error .unsupportedWidth
  else if sz = 0#2 then decodeByteReg p write a data
  else decodeWordReg p write a data

/-- A command whose `DATA` must be 0 (R103). -/
def noArg (data : Word) (i : Instr) : Except DecodeError Instr :=
  if data = 0#32 then .ok i else .error .reservedEncoding

/-- A command whose `DATA` is a byte (R103). -/
def byteArg (data : Word) (i : Byte → Instr) : Except DecodeError Instr :=
  if highZero data then .ok (i (lowByte data)) else .error .reservedEncoding

/-- Decode of a CMD word: the command codes of R108; `ADDR` must be 0 for every command (R103). -/
def decodeCmd (cc : Nat) (a data : Word) : Except DecodeError Instr :=
  if a ≠ 0#32 then .error .reservedEncoding
  else match cc with
  | 0x01 => .ok (.cfgLine data)
  | 0x02 => .ok (.init data)
  | 0x03 => noArg data .irqenDma
  | 0x04 => noArg data .irqenErr
  | 0x08 => noArg data .armRx
  | 0x09 => byteArg data .armTx
  | 0x0A => noArg data .disarmRx
  | 0x0B => noArg data .disarmTx
  | 0x0C => noArg data .clrtcRx
  | 0x0D => noArg data .clrtcTx
  | 0x10 => noArg data .davail
  | 0x11 => noArg data .read
  | 0x12 => byteArg data .stx
  | 0x13 => noArg data .mloop
  | _ => .error .reservedEncoding

/-- The decoder (R101, R106). -/
def decode (p : Params) (t : OpWord) : Except DecodeError Instr :=
  let ctl := ctlOf t
  if ctl.extractLsb' 6 2 = 3#2 then .error .reservedEncoding
  else if ctl.getLsbD 6 then decodeCmd (ctl.extractLsb' 0 6).toNat (addrOf t) (dataOf t)
  else if ctl.extractLsb' 2 4 ≠ 0#4 then .error .reservedEncoding
  else decodeBus p (ctl.getLsbD 7) (ctl.extractLsb' 0 2) (addrOf t) (dataOf t)

/-- The instruction the decoder reads, with the default parameters of R5, from the operation word
whose bits are `w`; every bit above the row's bits is 0.  An operation word is one 72-bit word
(R100), so there is no order of words or bytes to choose, and the number of bits the table gives a
row decides nothing. -/
def decodeTableWord (_nbits w : Nat) : Option Instr :=
  (decode Params.standard (BitVec.ofNat 72 w)).toOption

/-! ## The encoder -/

/-- An operation word from its three groups (R100). -/
def opWord (ctl : BitVec 8) (addr data : Word) : OpWord := ctl ++ addr ++ data

/-- A BUS word for a 32-bit read: `CTL = 0x02`, `DATA` canonically 0 (R102). -/
def rdWord (p : Params) (r : Reg) : OpWord := opWord 0x02#8 (p.regAddr r) 0#32

/-- A BUS word for a 32-bit write: `CTL = 0x82` (R102). -/
def wrWord (p : Params) (r : Reg) (w : Word) : OpWord := opWord 0x82#8 (p.regAddr r) w

/-- A byte as a `DATA` group, `DATA[31:8] = 0` (R103, R105). -/
def byteData (b : Byte) : Word := b.setWidth 32

/-- A CMD word: `CTL = 0x40 | CC`, `ADDR = 0` (R103). -/
def cmdWord (cc : BitVec 8) (data : Word) : OpWord := opWord (0x40#8 ||| cc) 0#32 data

/-- The operation word of an instruction (R107, R108). -/
def encode (p : Params) : Instr → OpWord
  | .rdDmaIsr => rdWord p .dmaIsr
  | .wrDmaIsr w => wrWord p .dmaIsr w
  | .rdDmaIfcr => rdWord p .dmaIfcr
  | .wrDmaIfcr w => wrWord p .dmaIfcr w
  | .rdCcrRx => rdWord p (.ccr .rx)
  | .wrCcrRx w => wrWord p (.ccr .rx) w
  | .rdCcrTx => rdWord p (.ccr .tx)
  | .wrCcrTx w => wrWord p (.ccr .tx) w
  | .rdCndtrRx => rdWord p (.cndtr .rx)
  | .wrCndtrRx w => wrWord p (.cndtr .rx) w
  | .rdCndtrTx => rdWord p (.cndtr .tx)
  | .wrCndtrTx w => wrWord p (.cndtr .tx) w
  | .rdCparRx => rdWord p (.cpar .rx)
  | .wrCparRx w => wrWord p (.cpar .rx) w
  | .rdCparTx => rdWord p (.cpar .tx)
  | .wrCparTx w => wrWord p (.cpar .tx) w
  | .rdCmarRx => rdWord p (.cmar .rx)
  | .wrCmarRx w => wrWord p (.cmar .rx) w
  | .rdCmarTx => rdWord p (.cmar .tx)
  | .wrCmarTx w => wrWord p (.cmar .tx) w
  | .rdSlCr1 => rdWord p .slCr1
  | .wrSlCr1 w => wrWord p .slCr1 w
  | .rdSlCr3 => rdWord p .slCr3
  | .wrSlCr3 w => wrWord p .slCr3 w
  | .rdSlBrr => rdWord p .slBrr
  | .wrSlBrr w => wrWord p .slBrr w
  | .rdSlIsr => rdWord p .slIsr
  | .wrSlIsr w => wrWord p .slIsr w
  | .rdSlIcr => rdWord p .slIcr
  | .wrSlIcr w => wrWord p .slIcr w
  | .rdSlRdr32 => rdWord p .slRdr
  | .rdSlRdr8 => opWord 0x00#8 (p.regAddr .slRdr) 0#32
  | .wrSlRdr32 w => wrWord p .slRdr w
  | .wrSlRdr8 b => opWord 0x80#8 (p.regAddr .slRdr) (byteData b)
  | .rdSlTdr32 => rdWord p .slTdr
  | .rdSlTdr8 => opWord 0x00#8 (p.regAddr .slTdr) 0#32
  | .wrSlTdr32 w => wrWord p .slTdr w
  | .wrSlTdr8 b => opWord 0x80#8 (p.regAddr .slTdr) (byteData b)
  | .rd8Mem a => opWord 0x00#8 a 0#32
  | .wr8Mem a b => opWord 0x80#8 a (byteData b)
  | .cfgLine baud => cmdWord 0x01#8 baud
  | .init baud => cmdWord 0x02#8 baud
  | .irqenDma => cmdWord 0x03#8 0#32
  | .irqenErr => cmdWord 0x04#8 0#32
  | .armRx => cmdWord 0x08#8 0#32
  | .armTx b => cmdWord 0x09#8 (byteData b)
  | .disarmRx => cmdWord 0x0A#8 0#32
  | .disarmTx => cmdWord 0x0B#8 0#32
  | .clrtcRx => cmdWord 0x0C#8 0#32
  | .clrtcTx => cmdWord 0x0D#8 0#32
  | .davail => cmdWord 0x10#8 0#32
  | .read => cmdWord 0x11#8 0#32
  | .stx b => cmdWord 0x12#8 (byteData b)
  | .mloop => cmdWord 0x13#8 0#32

end Sys2Proof
end

