-- ==== Sys2Proof/Machine/State.lean ====
section
/-!
DEFINITION. The state of the machine (spec/10_state.md R20): the DMA block, the serial line, the
memory, the coordinator, the wire, the two sticky marks, and the model's own fields for what the
outside world supplies (launch parameters, schedule, the words of the HOST and their results).
-/

namespace Sys2Proof.Machine

/-! ## Reasons to stop -/

/-- The per-channel registers a fault can name (R321). -/
inductive ChanReg where
  | ccr
  | cndtr
  | cpar
  | cmar
  deriving DecidableEq, Repr

/-- The faults of R321.  A step that raises one records it in `faultMark` and changes nothing else;
from then on no agent has a step. -/
inductive Fault where
  /-- F1: raised by `WR_CNDTR_c`, `WR_CPAR_c`, `WR_CMAR_c` on an enabled channel and by `WR_CCR_c`
  where it changes a field other than `EN`, `TCIE` of an enabled channel (R145).  Safe: the source
  calls the behaviour undefined and the model gives it no result. -/
  | enabledChannelMutation (c : Role) (reg : ChanReg)
  /-- F2: raised by a read of a memory byte never written since reset, by the `CPU` or by `CH[TX]`
  (R77).  Safe: the model gives the read no value. -/
  | unwrittenRead (a : Word)
  deriving DecidableEq, Repr

/-- The refusals of R322.  A step that refuses records the reason in `refusedMark` and changes
nothing else; from then on no agent has a step. -/
inductive Refusal where
  /-- X1, raised by decode (R109).  Safe. -/
  | reservedEncoding
  /-- X2, raised by decode (R74, R104).  Safe. -/
  | unsupportedWidth
  /-- X3, raised by decode (R73).  Safe. -/
  | misalignedAccess
  /-- X4, raised by decode, and by a memory access outside RAM (R71).  Safe. -/
  | unmappedAccess
  /-- X5, raised by decode (R146, R226).  Safe. -/
  | unimplementedRegister
  /-- X6, raised by `WR_CCR_c`, `WR_CNDTR_c`, `WR_SL_CR1`, `WR_SL_CR3`, `WR_SL_BRR`, `WR_SL_TDR`
  on a reserved bit written 1 (R137, R139, R212, R214, R216, R224).  Safe. -/
  | reservedBits
  /-- X7, raised by the enabling write of `WR_CCR_c` (R136).  Safe. -/
  | illegalChannelConfig
  /-- X8, raised by the enabling write of `WR_CCR_c` (R138).  Safe. -/
  | unsupportedCount
  /-- X9, raised by `CFGLINE` and `INIT` (R237).  Safe. -/
  | zeroBaud
  /-- X10, raised by `CFGLINE` and `INIT` (R237).  Safe. -/
  | divisorOutOfRange
  /-- X11, raised by `DAVAIL`, `READ`, `STX`, `MLOOP` in the autonomous variant (R284).  Safe. -/
  | commandNotInVariant
  /-- An instruction this model gives no meaning; no arm of `exec` answers with it.  Safe. -/
  | notModelled (mnemonic : String)
  deriving DecidableEq, Repr

/-! ## Sequencer positions (R53) -/

/-- The seven steps of `ARM(c)` (R186). -/
inductive ArmStep where
  | a1
  | a2
  | a3
  | a4
  | a5
  | a6
  | a7
  deriving DecidableEq, Repr

/-- The two steps of `DISARM(c)` (R189). -/
inductive DisarmStep where
  | q1
  | q2
  deriving DecidableEq, Repr

/-- The steps of `H_DMA` (R262, R266, R267).  From `d7` on the steps of the two variants have names
of their own: `coop7`, `coop8` are `d7`, `d8` of R266; `auto7` to `auto10` are `d7` to `d10` of
R267. -/
inductive DmaPos where
  | d1
  | d2
  | d3
  | d4 (q : DisarmStep)
  | d5
  | d6
  | coop7
  | coop8 (a : ArmStep)
  | auto7
  | auto8
  | auto9 (a : ArmStep)
  | auto10 (a : ArmStep)
  | ret
  deriving DecidableEq, Repr

/-- The steps of `H_ERR` (R271). -/
inductive ErrPos where
  | e1
  | e2
  | e3
  | e4
  | e5
  | e6
  | e7
  | e8
  | ret
  deriving DecidableEq, Repr

/-- The steps of `CFGLINE` (R236). -/
inductive CfgStep where
  | c0
  | c1
  | c2
  | c3
  | c4
  | c5
  | c6
  | c7
  | c8
  | c9
  deriving DecidableEq, Repr

/-- The steps of `READ` (R281). -/
inductive ReadStep where
  | m1
  | m2
  deriving DecidableEq, Repr

/-- The steps of `STX` (R282). -/
inductive StxStep where
  | w1
  | w2
  | w3
  | w4 (a : ArmStep)
  deriving DecidableEq, Repr

/-- The position of `MAIN` inside the command it runs.  `first` is the first step of whatever
command that is (R285). -/
inductive MainPos where
  | first
  | cfg (k : CfgStep)
  | i1
  | i2 (a : ArmStep)
  | arm (a : ArmStep)
  | disarm (q : DisarmStep)
  | read (m : ReadStep)
  | stx (k : StxStep)
  | p2 (m : ReadStep)
  | p3 (k : StxStep)
  deriving DecidableEq, Repr

/-- The temporaries of one context (R52). -/
structure Temps where
  /-- `x[s]`: the last value read from `DMA_ISR` or `SL_ISR`. -/
  s : Word
  /-- `x[v]`: the value read for a read-modify-write. -/
  v : Word
  /-- `x[b]`: the byte being handed over. -/
  b : Byte
  /-- `x[t]`: the flag value just read. -/
  t : Bool
  deriving DecidableEq, Repr

/-- Fresh temporaries.  R52 and R336 call them unwritten and say that their value never matters,
because every sequence writes a temporary before it reads it: zeros (DESIGN CHOICE, log entry 8). -/
def Temps.fresh : Temps := ⟨0#32, 0#32, 0#8, false⟩

/-- A handler: inactive, or active at a position with its temporaries (R47). -/
inductive Handler (α : Type) where
  | inactive
  | active (pos : α) (t : Temps)
  deriving DecidableEq, Repr

/-- `MAIN`: idle, or running the command in the word the HOST gave it (R47, R285). -/
inductive MainCtx where
  | idle
  | running (word : OpWord) (pos : MainPos) (t : Temps)
  deriving DecidableEq, Repr

/-! ## The blocks -/

/-- The registers of one DMA channel (R21 to R24) and its stored completion flag (R25). -/
structure Chan where
  ccr  : Word
  ndt  : BitVec 16
  cpar : Word
  cmar : Word
  tcif : Bool
  deriving DecidableEq, Repr

/-- The serial line as the engine touches it (R30 to R36). -/
structure Serial where
  cr1  : Word
  cr3  : Word
  div  : BitVec 16
  pe   : Bool
  fe   : Bool
  nf   : Bool
  ore  : Bool
  rxne : Bool
  txe  : Bool
  rdr  : Byte
  tdr  : Byte
  deriving DecidableEq, Repr

/-- One received character with its error marks (R227). -/
structure Frame where
  data : Byte
  fe   : Bool
  nf   : Bool
  pe   : Bool
  deriving DecidableEq, Repr

/-- What a command hands to the HOST when it ends (R285). -/
inductive Result where
  | nothing
  | bit (t : Bool)
  | byte (b : Byte)
  | word (w : Word)
  deriving DecidableEq, Repr

/-- The whole state (R20). -/
structure State where
  /-- The launch parameters of R5; no step changes them. -/
  params : Params
  /-- The receive channel. -/
  rx : Chan
  /-- The transmit channel. -/
  tx : Chan
  /-- The serial line. -/
  sl : Serial
  /-- `MEM` (R40): the bytes that have been written, addresses strictly rising. -/
  mem : List Host.Cell
  /-- `CO.rxComplete` (R45). -/
  rxComplete : Bool
  /-- `CO.txDone` (R45). -/
  txDone : Bool
  /-- `CO.IEN_DMA` (R46). -/
  ienDma : Bool
  /-- `CO.IEN_ERR` (R46). -/
  ienErr : Bool
  /-- `CO.hDMA` (R47). -/
  hDma : Handler DmaPos
  /-- `CO.hERR` (R47). -/
  hErr : Handler ErrPos
  /-- `CO.main` (R47). -/
  main : MainCtx
  /-- `ENV.RXWIRE` (R55). -/
  rxWire : List Frame
  /-- `ENV.TXLINE` (R55). -/
  txLine : List Byte
  /-- `FAULT` (R56). -/
  faultMark : Option Fault
  /-- `REFUSED` (R56). -/
  refusedMark : Option Refusal
  /-- The model's own: the words the HOST will still give `MAIN`, the next one first (R285). -/
  hostWords : List OpWord
  /-- The model's own: what the commands that have ended handed to the HOST, oldest first (R285). -/
  results : List Result
  /-- The model's own: the turns of the schedule that are listed, the next one first (R6, R20). -/
  sched : List Turn
  /-- The model's own: how many turns were taken from the free schedule. -/
  freeTurns : Nat
  deriving DecidableEq, Repr

/-- A channel after reset (R360). -/
def Chan.reset : Chan := ⟨0#32, 0#16, 0#32, 0#32, false⟩

/-- The serial line after reset (R360).  The spec leaves `RDR` and `TDR` unspecified: zeros
(DESIGN CHOICE, log entry 7). -/
def Serial.reset : Serial where
  cr1 := 0#32
  cr3 := 0#32
  div := 0#16
  pe := false
  fe := false
  nf := false
  ore := false
  rxne := false
  txe := true
  rdr := 0#8
  tdr := 0#8

/-- The machine right after reset, launched with parameters `p` and the frame list `frames`
(R360). -/
def State.resetWith (p : Params) (frames : List Frame) : State where
  params := p
  rx := .reset
  tx := .reset
  sl := .reset
  mem := []
  rxComplete := false
  txDone := true
  ienDma := false
  ienErr := false
  hDma := .inactive
  hErr := .inactive
  main := .idle
  rxWire := frames
  txLine := []
  faultMark := none
  refusedMark := none
  hostWords := []
  results := []
  sched := []
  freeTurns := 0

/-- The machine right after reset (R360), with the parameters of `Params.standard` and an empty
receive wire (log entry 2). -/
def State.reset : State := State.resetWith Params.standard []

end Sys2Proof.Machine
end

