-- ==== Sys2Proof/Machine/Operands.lean ====
section
/-!
DEFINITION. The operands of the operations: channels by role, the fields and masks of the registers
(spec/10_state.md R21 to R36), the flag bits of a channel in the shared register pair (R25, R26),
and the fixed values `ARM` programs (spec/41_transfer_engine.md R186).
-/

namespace Sys2Proof.Machine

/-! ## Channels -/

/-- The channel of a role. -/
def State.chan (s : State) : Role → Chan
  | .rx => s.rx
  | .tx => s.tx

/-- Replace the channel of a role. -/
def State.setChan (s : State) (c : Role) (x : Chan) : State :=
  match c with
  | .rx => { s with rx := x }
  | .tx => { s with tx := x }

/-- The bits of `CCR[c]` that exist and may be written 1: `EN`, `TCIE`, `DIR`, `PL` (R21, R137). -/
def ccrMask : Word := 0x00003013#32

/-- The bits of `CCR[c]` that may change while the channel is enabled: `EN`, `TCIE` (R145). -/
def ccrLiveMask : Word := 0x00000003#32

/-- `CCR[c]` as it reads: the reserved bits read 0 (R21, R134). -/
def Chan.ccrRead (x : Chan) : Word := x.ccr &&& ccrMask

/-- `CCR.EN`. -/
def Chan.en (x : Chan) : Bool := x.ccr.getLsbD 0

/-- `CCR.TCIE`. -/
def Chan.tcie (x : Chan) : Bool := x.ccr.getLsbD 1

/-- `CCR.PL`. -/
def Chan.pl (x : Chan) : BitVec 2 := x.ccr.extractLsb' 12 2

/-- The data register a role is bound to: `SL_RDR` for `RX`, `SL_TDR` for `TX` (R136). -/
def dataReg : Role → Reg
  | .rx => .slRdr
  | .tx => .slTdr

/-- The direction bit a role must have: 0 for `RX`, 1 for `TX` (R136). -/
def dirOf : Role → Bool
  | .rx => false
  | .tx => true

/-- `LegalConfig(c, w)` (R136), of the channel `x` that holds the addresses. -/
def legalConfig (p : Params) (c : Role) (x : Chan) (w : Word) : Bool :=
  w.getLsbD 4 == dirOf c && x.cpar == p.regAddr (dataReg c) && x.cmar == p.cellAddr c

/-- `CFG(c)` of R186: `TCIE`, and `DIR` for `TX`; `EN = 0`. -/
def armCfg : Role → Word
  | .rx => 0x00000002#32
  | .tx => 0x00000012#32

/-! ## Flag bits -/

/-- A word with bit `k` at `b` and every other bit 0. -/
def bitAt (b : Bool) (k : Nat) : Word := if b then 1#32 <<< k else 0#32

/-- The bit number of `GIF[n]`, `CGIF[n]` of role `c` (R25, R26). -/
def gifBit (p : Params) (c : Role) : Nat := 4 * (p.channel c - 1)

/-- The bit number of `TCIF[n]`, `CTCIF[n]` of role `c`: `TC(c)` (R25, R26). -/
def tcBit (p : Params) (c : Role) : Nat := 4 * (p.channel c - 1) + 1

/-! ## Fields of the serial line -/

/-- The bits of `SL_CR1` that exist: `UE`, `RE`, `TE`, `PEIE` (R30, R212). -/
def cr1Mask : Word := 0x0000010D#32

/-- The bits of `SL_CR3` that exist: `EIE`, `DMAR`, `DMAT` (R31, R214). -/
def cr3Mask : Word := 0x000000C1#32

/-- `SL_CR1.UE`. -/
def Serial.ue (l : Serial) : Bool := l.cr1.getLsbD 0

/-- `SL_CR1.RE`. -/
def Serial.re (l : Serial) : Bool := l.cr1.getLsbD 2

/-- `SL_CR1.TE`. -/
def Serial.te (l : Serial) : Bool := l.cr1.getLsbD 3

/-- `SL_CR1.PEIE`. -/
def Serial.peie (l : Serial) : Bool := l.cr1.getLsbD 8

/-- `SL_CR3.EIE`. -/
def Serial.eie (l : Serial) : Bool := l.cr3.getLsbD 0

/-- `SL_CR3.DMAR`. -/
def Serial.dmar (l : Serial) : Bool := l.cr3.getLsbD 6

/-- `SL_CR3.DMAT`. -/
def Serial.dmat (l : Serial) : Bool := l.cr3.getLsbD 7

/-- The divisor of `CFGLINE` and `INIT`: `CLK_HZ div baud` (R235). -/
def baudDivisor (p : Params) (baud : Word) : Nat := p.clkHz / baud.toNat

end Sys2Proof.Machine
end

