-- ==== Sys2Proof/Machine/Flags.lean ====
section
/-!
DEFINITION. Every flag computation: the two status words, the request lines and the arbiter
(spec/41_transfer_engine.md R174 to R177), the two interrupt lines (R184, spec/42_serial_line.md
R233), when a line is due (spec/60_exceptions.md R330), and the flags an arriving frame or a write
of a clear register changes.
-/

namespace Sys2Proof.Machine

/-! ## Status words -/

/-- The bits role `c` shows in `DMA_ISR` (R25): `GIF` mirrors `TCIF`. -/
def chanFlags (p : Params) (c : Role) (x : Chan) : Word :=
  bitAt x.tcif (tcBit p c) ||| bitAt x.tcif (gifBit p c)

/-- `DMA_ISR` as it reads (R130): both channels coalesced into one word. -/
def State.dmaIsr (s : State) : Word :=
  chanFlags s.params .rx s.rx ||| chanFlags s.params .tx s.tx

/-- `SL_ISR` as it reads (R217). -/
def Serial.isr (l : Serial) : Word :=
  bitAt l.pe 0 ||| bitAt l.fe 1 ||| bitAt l.nf 2 ||| bitAt l.ore 3 ||| bitAt l.rxne 5 |||
    bitAt l.txe 7

/-- `TCIF[c]` after a write of `w` to `DMA_IFCR`: cleared by `CTCIF` or `CGIF` (R133). -/
def Chan.clearFlag (p : Params) (c : Role) (w : Word) (x : Chan) : Chan :=
  { x with tcif := x.tcif && !(w.getLsbD (tcBit p c) || w.getLsbD (gifBit p c)) }

/-- The four error flags after a write of `w` to `SL_ICR` (R220). -/
def Serial.clearFlags (w : Word) (l : Serial) : Serial :=
  { l with
    pe := l.pe && !w.getLsbD 0
    fe := l.fe && !w.getLsbD 1
    nf := l.nf && !w.getLsbD 2
    ore := l.ore && !w.getLsbD 3 }

/-! ## Requests and the arbiter -/

/-- `REQ[c]` (R174). -/
def Serial.request (l : Serial) : Role → Bool
  | .rx => l.ue && l.re && l.dmar && l.rxne
  | .tx => l.ue && l.te && l.dmat && l.txe

/-- Channel `x` is Armed: enabled, with a count of 1 (R171). -/
def Chan.armed (x : Chan) : Bool := x.en && x.ndt == 1#16

/-- `Ready(c)` (R175). -/
def State.ready (s : State) (c : Role) : Bool := (s.chan c).armed && s.sl.request c

/-- With both channels ready, the channel the `FIXED` arbiter grants: the larger `PL`, then the
smaller channel number (R177). -/
def State.fixedGrant (s : State) : Role :=
  if s.tx.pl < s.rx.pl then .rx
  else if s.rx.pl < s.tx.pl then .tx
  else if s.params.rxCh < s.params.txCh then .rx
  else .tx

/-- The step `XFER(c)` is enabled: `c` is ready and the arbiter grants it (R176, R177). -/
def State.granted (s : State) (c : Role) : Bool :=
  s.ready c &&
    (if s.params.arbPolicy = .fixed ∧ s.ready .rx = true ∧ s.ready .tx = true then
      decide (s.fixedGrant = c)
    else true)

/-! ## Interrupt lines -/

/-- `IRQ_DMA` (R184): not gated by `EN`. -/
def State.irqDma (s : State) : Bool := s.rx.tcif && s.rx.tcie || s.tx.tcif && s.tx.tcie

/-- `IRQ_ERR` (R233): not gated by `UE`. -/
def Serial.irqErr (l : Serial) : Bool :=
  l.eie && (l.ore || l.fe || l.nf) || l.peie && l.pe

/-- A handler is active. -/
def Handler.isActive {α : Type} : Handler α → Bool
  | .inactive => false
  | .active _ _ => true

/-- `MAIN` runs a command. -/
def MainCtx.isRunning : MainCtx → Bool
  | .idle => false
  | .running _ _ _ => true

/-- `IRQ_DMA` is due (R330): no latched pending bit. -/
def State.dueDma (s : State) : Bool := s.irqDma && s.ienDma && !s.hDma.isActive

/-- `IRQ_ERR` is due (R330). -/
def State.dueErr (s : State) : Bool := s.sl.irqErr && s.ienErr && !s.hErr.isActive

/-! ## An arriving frame -/

/-- The serial line after the arrival of frame `f` (R228). -/
def Serial.receive (oreBlocksRx : Bool) (f : Frame) (l : Serial) : Serial :=
  if ¬ (l.ue && l.re) then l
  else if oreBlocksRx && l.ore then l
  else
    let l' : Serial := { l with fe := l.fe || f.fe, nf := l.nf || f.nf, pe := l.pe || f.pe }
    if f.fe || f.nf || f.pe then l'
    else if l.rxne then { l' with ore := true }
    else { l' with rdr := f.data, rxne := true }

end Sys2Proof.Machine
end

