-- ==== Sys2Proof/Machine/Ops.lean ====
section
/-!
DEFINITION. The named operations the meanings share: sequencing of outcomes, the byte-addressed
memory (spec/20_memory.md R75 to R77), the state of `MAIN` (spec/43_echo_coordinator.md R285), and
taking an interrupt and returning from one (spec/60_exceptions.md R332, R333, R337).
-/

namespace Sys2Proof.Machine

/-- Outcomes of this machine. -/
abbrev Out (α : Type) := Host.Outcome α Fault Refusal

/-- One thing after another: the first fault or refusal decides (R324). -/
def andThen {α β : Type} (o : Out α) (f : α → Out β) : Out β :=
  match o with
  | .next a => f a
  | .fault r => .fault r
  | .refused r => .refused r

/-- The refusal of a decode error: X1 to X5 of R322. -/
def refusalOf : DecodeError → Refusal
  | .reservedEncoding => .reservedEncoding
  | .unsupportedWidth => .unsupportedWidth
  | .misalignedAccess => .misalignedAccess
  | .unmappedAccess => .unmappedAccess
  | .unimplementedRegister => .unimplementedRegister

/-! ## Memory -/

/-- The canonical form of memory: addresses strictly rising.  An unlisted address reads as
`unwritten` (R40), which no listed byte equals, so equal memories are equal lists. -/
abbrev Memory.wf (m : List Host.Cell) : Prop := m.Pairwise fun x y => x.1 < y.1

/-- The byte at an address, or `none` for the mark `unwritten` (R40, log entry 6). -/
def Memory.get : List Host.Cell → Nat → Option Byte
  | [], _ => none
  | (a, b) :: m, k => if a = k then some b else Memory.get m k

/-- Write one byte, keeping the canonical form. -/
def Memory.set : List Host.Cell → Nat → Byte → List Host.Cell
  | [], k, v => [(k, v)]
  | (a, b) :: m, k, v =>
    if k < a then (k, v) :: (a, b) :: m
    else if k = a then (k, v) :: m
    else (a, b) :: Memory.set m k v

/-- The byte of `MEM` at a bus address, `none` where nothing has been written. -/
def State.byteAt (s : State) (a : Word) : Option Byte := Memory.get s.mem a.toNat

/-- `MemRead(a, 8)` (R75, R77); outside RAM there is no memory (R71). -/
def memRead8 (a : Word) (s : State) : Out Byte :=
  if s.params.inRam a then
    match s.byteAt a with
    | some b => .next b
    | none => .fault (.unwrittenRead a)
  else .refused .unmappedAccess

/-- `MemWrite(a, 8, v)` (R76); outside RAM there is no memory (R71). -/
def memWrite8 (a : Word) (v : Byte) (s : State) : Out State :=
  if s.params.inRam a then .next { s with mem := Memory.set s.mem a.toNat v }
  else .refused .unmappedAccess

/-! ## `MAIN` -/

/-- The position of `MAIN`; where it is idle, the first step of the command it is about to run. -/
def State.mainPos (s : State) : MainPos :=
  match s.main with
  | .idle => .first
  | .running _ pos _ => pos

/-- The temporaries of `MAIN`; fresh where it is idle (R285). -/
def State.mainTemps (s : State) : Temps :=
  match s.main with
  | .idle => .fresh
  | .running _ _ t => t

/-- `MAIN` goes on to position `pos` of the command `i` it runs. -/
def State.mainAt (i : Instr) (pos : MainPos) (t : Temps) (s : State) : State :=
  match s.main with
  | .idle => { s with main := .running (encode s.params i) pos t }
  | .running w _ _ => { s with main := .running w pos t }

/-- The command ends: `MAIN` becomes idle and the result is handed to the HOST (R285). -/
def State.endMain (r : Result) (s : State) : State :=
  { s with main := .idle, results := s.results ++ [r] }

/-- A BUS write as a command of one micro-step (R285): it ends without a result. -/
def endWrite (o : Out State) : Out State := andThen o fun s => .next (s.endMain .nothing)

/-- What one micro-step of a sequence answers: the next step of the sequence, `none` where this was
its last, with the temporaries and the state. -/
abbrev Micro (κ : Type) := Out (Option κ × Temps × State)

/-- One micro-step of a command of `MAIN`: the step of its sequence, and `MAIN` at the step that
follows, or idle with `result` handed over after the last (R53, R285). -/
def mainStep {κ : Type} (i : Instr) (wrap : κ → MainPos) (result : Temps → Result)
    (run : Temps → State → Micro κ) (s : State) : Out State :=
  andThen (run s.mainTemps s) fun (k, t, s') =>
    match k with
    | some k => .next (s'.mainAt i (wrap k) t)
    | none => .next (s'.endMain (result t))

/-- The four commands of the mainline surface exist in the cooperative variant only (R284). -/
def cooperativeOnly (s : State) (o : Out State) : Out State :=
  if s.params.echoPolicy = .autonomous then .refused .commandNotInVariant else o

/-! ## Taking an interrupt and returning from it -/

/-- The two handlers (R325). -/
inductive HandlerId where
  | dma
  | err
  deriving DecidableEq, Repr

/-- `ENTER(h)` (R332, R333): the handler starts at its first step with fresh temporaries; the
interrupted context keeps its position and its temporaries, and nothing else changes. -/
def enter (h : HandlerId) (s : State) : State :=
  match h with
  | .dma => { s with hDma := .active .d1 .fresh }
  | .err => { s with hErr := .active .e1 .fresh }

/-- The step `ret` of a handler (R337): it becomes inactive; nothing is restored or re-enabled. -/
def returnFrom (h : HandlerId) (s : State) : State :=
  match h with
  | .dma => { s with hDma := .inactive }
  | .err => { s with hErr := .inactive }

end Sys2Proof.Machine
end

