-- ==== Sys2Proof/Machine/DmaRegs.lean ====
section
/-!
DEFINITION. The bus operations on the DMA block's registers (spec/40_dma_registers.md), each once
for both roles, and the meanings of the BUS instructions that perform them.
-/

namespace Sys2Proof.Machine

/-! ## The bus operations -/

/-- Write of `DMA_IFCR` (R133). -/
def wrDmaIfcr (w : Word) (s : State) : State :=
  { s with
    rx := s.rx.clearFlag s.params .rx w
    tx := s.tx.clearFlag s.params .tx w }

/-- Read of `CCR[c]` (R134). -/
def rdCcr (c : Role) (s : State) : Word := (s.chan c).ccrRead

/-- Write of `CCR[c]` (R135): the checks in the order of R324, then the store. -/
def wrCcr (c : Role) (w : Word) (s : State) : Out State :=
  if w &&& ~~~ccrMask ≠ 0#32 then .refused .reservedBits
  else if (s.chan c).en = true ∧ w &&& ~~~ccrLiveMask ≠ rdCcr c s &&& ~~~ccrLiveMask then
    .fault (.enabledChannelMutation c .ccr)
  else if (s.chan c).en = false ∧ w.getLsbD 0 = true ∧
      legalConfig s.params c (s.chan c) w = false then
    .refused .illegalChannelConfig
  else if (s.chan c).en = false ∧ w.getLsbD 0 = true ∧ 2 ≤ (s.chan c).ndt.toNat then
    .refused .unsupportedCount
  else .next (s.setChan c { s.chan c with ccr := w })

/-- A write of a register that may be written only while the channel is disabled (R145). -/
def whileDisabled (c : Role) (r : ChanReg) (x : Chan) (s : State) : Out State :=
  if (s.chan c).en = true then .fault (.enabledChannelMutation c r) else .next (s.setChan c x)

/-- Read of `CNDTR[c]` (R140). -/
def rdCndtr (c : Role) (s : State) : Word := (s.chan c).ndt.setWidth 32

/-- Write of `CNDTR[c]` (R139). -/
def wrCndtr (c : Role) (w : Word) (s : State) : Out State :=
  if w.extractLsb' 16 16 ≠ 0#16 then .refused .reservedBits
  else whileDisabled c .cndtr { s.chan c with ndt := w.extractLsb' 0 16 } s

/-- Write of `CPAR[c]` (R141). -/
def wrCpar (c : Role) (w : Word) (s : State) : Out State :=
  whileDisabled c .cpar { s.chan c with cpar := w } s

/-- Write of `CMAR[c]` (R143). -/
def wrCmar (c : Role) (w : Word) (s : State) : Out State :=
  whileDisabled c .cmar { s.chan c with cmar := w } s

/-! ## The instructions -/

/-- `RD_DMA_ISR` (R130). -/
def execRdDmaIsr (s : State) : Out State := .next (s.endMain (.word s.dmaIsr))

/-- `WR_DMA_ISR` (R131): the register is read-only, the write changes nothing. -/
def execWrDmaIsr (_w : Word) (s : State) : Out State := endWrite (.next s)

/-- `RD_DMA_IFCR` (R132): the register has no storage and reads 0. -/
def execRdDmaIfcr (s : State) : Out State := .next (s.endMain (.word 0#32))

/-- `WR_DMA_IFCR` (R133). -/
def execWrDmaIfcr (w : Word) (s : State) : Out State := endWrite (.next (wrDmaIfcr w s))

/-- `RD_CCR_RX` (R134). -/
def execRdCcrRx (s : State) : Out State := .next (s.endMain (.word (rdCcr .rx s)))

/-- `WR_CCR_RX` (R135). -/
def execWrCcrRx (w : Word) (s : State) : Out State := endWrite (wrCcr .rx w s)

/-- `RD_CCR_TX` (R134). -/
def execRdCcrTx (s : State) : Out State := .next (s.endMain (.word (rdCcr .tx s)))

/-- `WR_CCR_TX` (R135). -/
def execWrCcrTx (w : Word) (s : State) : Out State := endWrite (wrCcr .tx w s)

/-- `RD_CNDTR_RX` (R140). -/
def execRdCndtrRx (s : State) : Out State := .next (s.endMain (.word (rdCndtr .rx s)))

/-- `WR_CNDTR_RX` (R139). -/
def execWrCndtrRx (w : Word) (s : State) : Out State := endWrite (wrCndtr .rx w s)

/-- `RD_CNDTR_TX` (R140). -/
def execRdCndtrTx (s : State) : Out State := .next (s.endMain (.word (rdCndtr .tx s)))

/-- `WR_CNDTR_TX` (R139). -/
def execWrCndtrTx (w : Word) (s : State) : Out State := endWrite (wrCndtr .tx w s)

/-- `RD_CPAR_RX` (R142). -/
def execRdCparRx (s : State) : Out State := .next (s.endMain (.word s.rx.cpar))

/-- `WR_CPAR_RX` (R141). -/
def execWrCparRx (w : Word) (s : State) : Out State := endWrite (wrCpar .rx w s)

/-- `RD_CPAR_TX` (R142). -/
def execRdCparTx (s : State) : Out State := .next (s.endMain (.word s.tx.cpar))

/-- `WR_CPAR_TX` (R141). -/
def execWrCparTx (w : Word) (s : State) : Out State := endWrite (wrCpar .tx w s)

/-- `RD_CMAR_RX` (R144). -/
def execRdCmarRx (s : State) : Out State := .next (s.endMain (.word s.rx.cmar))

/-- `WR_CMAR_RX` (R143). -/
def execWrCmarRx (w : Word) (s : State) : Out State := endWrite (wrCmar .rx w s)

/-- `RD_CMAR_TX` (R144). -/
def execRdCmarTx (s : State) : Out State := .next (s.endMain (.word s.tx.cmar))

/-- `WR_CMAR_TX` (R143). -/
def execWrCmarTx (w : Word) (s : State) : Out State := endWrite (wrCmar .tx w s)

end Sys2Proof.Machine
end

