-- ==== Sys2Proof/Machine/SerialRegs.lean ====
section
/-!
DEFINITION. The bus operations on the serial line's registers (spec/42_serial_line.md section 2),
and the meanings of the BUS instructions that perform them.
-/

namespace Sys2Proof.Machine

/-! ## The bus operations -/

/-- Read of `SL_CR1`: the reserved bits read 0 (R211). -/
def rdSlCr1 (s : State) : Word := s.sl.cr1 &&& cr1Mask

/-- Write of `SL_CR1` (R212). -/
def wrSlCr1 (w : Word) (s : State) : Out State :=
  if w &&& ~~~cr1Mask ≠ 0#32 then .refused .reservedBits
  else .next { s with sl := { s.sl with cr1 := w } }

/-- Read of `SL_CR3`: the reserved bits read 0 (R213). -/
def rdSlCr3 (s : State) : Word := s.sl.cr3 &&& cr3Mask

/-- Write of `SL_CR3` (R214). -/
def wrSlCr3 (w : Word) (s : State) : Out State :=
  if w &&& ~~~cr3Mask ≠ 0#32 then .refused .reservedBits
  else .next { s with sl := { s.sl with cr3 := w } }

/-- Write of `SL_BRR` (R216). -/
def wrSlBrr (w : Word) (s : State) : Out State :=
  if w.extractLsb' 16 16 ≠ 0#16 then .refused .reservedBits
  else .next { s with sl := { s.sl with div := w.extractLsb' 0 16 } }

/-- Write of `SL_ICR` (R220). -/
def wrSlIcr (w : Word) (s : State) : State := { s with sl := s.sl.clearFlags w }

/-- The side effect of a read of `SL_RDR`, whoever reads it (R79, R222). -/
def takeRdr (s : State) : State := { s with sl := { s.sl with rxne := false } }

/-- A byte written to `SL_TDR`, whoever writes it (R79, R224). -/
def putTdr (b : Byte) (s : State) : State := { s with sl := { s.sl with tdr := b, txe := false } }

/-- A 32-bit write of `SL_TDR` by the `CPU` (R224). -/
def wrSlTdr32 (w : Word) (s : State) : Out State :=
  if highZero w = false then .refused .reservedBits else .next (putTdr (lowByte w) s)

/-! ## The instructions -/

/-- `RD_SL_CR1` (R211). -/
def execRdSlCr1 (s : State) : Out State := .next (s.endMain (.word (rdSlCr1 s)))

/-- `WR_SL_CR1` (R212). -/
def execWrSlCr1 (w : Word) (s : State) : Out State := endWrite (wrSlCr1 w s)

/-- `RD_SL_CR3` (R213). -/
def execRdSlCr3 (s : State) : Out State := .next (s.endMain (.word (rdSlCr3 s)))

/-- `WR_SL_CR3` (R214). -/
def execWrSlCr3 (w : Word) (s : State) : Out State := endWrite (wrSlCr3 w s)

/-- `RD_SL_BRR` (R215). -/
def execRdSlBrr (s : State) : Out State := .next (s.endMain (.word (s.sl.div.setWidth 32)))

/-- `WR_SL_BRR` (R216). -/
def execWrSlBrr (w : Word) (s : State) : Out State := endWrite (wrSlBrr w s)

/-- `RD_SL_ISR` (R217). -/
def execRdSlIsr (s : State) : Out State := .next (s.endMain (.word s.sl.isr))

/-- `WR_SL_ISR` (R218): the register is read-only, the write changes nothing. -/
def execWrSlIsr (_w : Word) (s : State) : Out State := endWrite (.next s)

/-- `RD_SL_ICR` (R219): the register has no storage and reads 0. -/
def execRdSlIcr (s : State) : Out State := .next (s.endMain (.word 0#32))

/-- `WR_SL_ICR` (R220). -/
def execWrSlIcr (w : Word) (s : State) : Out State := endWrite (.next (wrSlIcr w s))

/-- `RD_SL_RDR`, 32-bit form (R222). -/
def execRdSlRdr32 (s : State) : Out State :=
  .next ((takeRdr s).endMain (.word (s.sl.rdr.setWidth 32)))

/-- `RD_SL_RDR`, 8-bit form (R222). -/
def execRdSlRdr8 (s : State) : Out State := .next ((takeRdr s).endMain (.byte s.sl.rdr))

/-- `WR_SL_RDR`, 32-bit form (R223): the register is read-only, the write changes nothing. -/
def execWrSlRdr32 (_w : Word) (s : State) : Out State := endWrite (.next s)

/-- `WR_SL_RDR`, 8-bit form (R223): the register is read-only, the write changes nothing. -/
def execWrSlRdr8 (_b : Byte) (s : State) : Out State := endWrite (.next s)

/-- `RD_SL_TDR`, 32-bit form (R225). -/
def execRdSlTdr32 (s : State) : Out State :=
  .next (s.endMain (.word (s.sl.tdr.setWidth 32)))

/-- `RD_SL_TDR`, 8-bit form (R225). -/
def execRdSlTdr8 (s : State) : Out State := .next (s.endMain (.byte s.sl.tdr))

/-- `WR_SL_TDR`, 32-bit form (R224). -/
def execWrSlTdr32 (w : Word) (s : State) : Out State := endWrite (wrSlTdr32 w s)

/-- `WR_SL_TDR`, 8-bit form (R224). -/
def execWrSlTdr8 (b : Byte) (s : State) : Out State := endWrite (.next (putTdr b s))

end Sys2Proof.Machine
end

