-- ==== Sys2Proof/Machine/Line.lean ====
section
/-!
DEFINITION. The serial line's own steps, reception and emission (spec/42_serial_line.md R228, R230),
and the configuration command `CFGLINE` (R235 to R237).
-/

namespace Sys2Proof.Machine

/-- The step of `SLRX` (R228): the next frame leaves the wire; no step while the wire is empty. -/
def slrxStep (s : State) : State :=
  match s.rxWire with
  | [] => s
  | f :: rest => { s with rxWire := rest, sl := s.sl.receive s.params.oreBlocksRx f }

/-- The step `EMIT` of `SLTX` (R230); no step while it is not enabled. -/
def emitStep (s : State) : State :=
  if s.sl.ue = true ∧ s.sl.te = true ∧ s.sl.txe = false then
    { s with txLine := s.txLine ++ [s.sl.tdr], sl := { s.sl with txe := true } }
  else s

/-- One micro-step of `CFGLINE baud` (R236); the refusals of R237 come before `c0`. -/
def cfgStep (baud : Word) (k : CfgStep) (t : Temps) (s : State) : Micro CfgStep :=
  match k with
  | .c0 =>
    if baud = 0#32 then .refused .zeroBaud
    else if baudDivisor s.params baud = 0 ∨ 0xFFFF < baudDivisor s.params baud then
      .refused .divisorOutOfRange
    else .next (some .c1, t, s)
  | .c1 => andThen (wrSlCr1 0x00000000#32 s) fun s' => .next (some .c2, t, s')
  | .c2 =>
    andThen (wrSlBrr (BitVec.ofNat 32 (baudDivisor s.params baud)) s) fun s' =>
      .next (some .c3, t, s')
  | .c3 => andThen (wrSlCr1 0x0000000D#32 s) fun s' => .next (some .c4, t, s')
  | .c4 => andThen (wrSlCr3 0x000000C0#32 s) fun s' => .next (some .c5, t, s')
  | .c5 => .next (some .c6, { t with v := rdSlCr3 s }, s)
  | .c6 => andThen (wrSlCr3 (t.v ||| 0x1#32) s) fun s' => .next (some .c7, t, s')
  | .c7 => .next (some .c8, { t with v := rdSlCr1 s }, s)
  | .c8 => andThen (wrSlCr1 (t.v ||| 0x100#32) s) fun s' => .next (some .c9, t, s')
  | .c9 => .next (none, t, { s with ienErr := true })

/-- Where `MAIN` is inside `CFGLINE` (R236). -/
def cfgPos : MainPos → CfgStep
  | .cfg k => k
  | _ => .c0

/-- `CFGLINE baud` (R236, R237). -/
def execCfgLine (baud : Word) (s : State) : Out State :=
  mainStep (.cfgLine baud) .cfg (fun _ => .nothing) (cfgStep baud (cfgPos s.mainPos)) s

end Sys2Proof.Machine
end

