-- ==== Sys2Proof/Machine/Transfer.lean ====
section
/-!
DEFINITION. The transfer engine (spec/41_transfer_engine.md): the transfer step `XFER(c)`, the
sequences `ARM(c)` and `DISARM(c)`, and the commands `ARM_RX`, `ARM_TX`, `DISARM_RX`, `DISARM_TX`,
`CLRTC_RX`, `CLRTC_TX`.
-/

namespace Sys2Proof.Machine

/-! ## The transfer -/

/-- The count to 0 and the completion flag set, `EN` as it was (R178). -/
def Chan.complete (x : Chan) : Chan := { x with ndt := 0#16, tcif := true }

/-- `XFER(c)`, one atomic step (R178).  The destination and source in memory are `CMAR[c]`. -/
def xfer (c : Role) (s : State) : Out State :=
  match c with
  | .rx =>
    andThen (memWrite8 s.rx.cmar s.sl.rdr (takeRdr s)) fun s' =>
      .next (s'.setChan .rx s.rx.complete)
  | .tx =>
    andThen (memRead8 s.tx.cmar s) fun b =>
      .next ((putTdr b s).setChan .tx s.tx.complete)

/-! ## `ARM` and `DISARM` -/

/-- One micro-step of `ARM(c)` (R186). -/
def armStep (c : Role) (k : ArmStep) (t : Temps) (s : State) : Micro ArmStep :=
  match k with
  | .a1 => .next (some .a2, { t with v := rdCcr c s }, s)
  | .a2 => andThen (wrCcr c (t.v &&& ~~~0x1#32) s) fun s' => .next (some .a3, t, s')
  | .a3 => andThen (wrCpar c (s.params.regAddr (dataReg c)) s) fun s' => .next (some .a4, t, s')
  | .a4 => andThen (wrCmar c (s.params.cellAddr c) s) fun s' => .next (some .a5, t, s')
  | .a5 => andThen (wrCndtr c 1#32 s) fun s' => .next (some .a6, t, s')
  | .a6 => andThen (wrCcr c (armCfg c) s) fun s' => .next (some .a7, t, s')
  | .a7 => andThen (wrCcr c (armCfg c ||| 0x1#32) s) fun s' => .next (none, t, s')

/-- One micro-step of `DISARM(c)` (R189). -/
def disarmStep (c : Role) (q : DisarmStep) (t : Temps) (s : State) : Micro DisarmStep :=
  match q with
  | .q1 => .next (some .q2, { t with v := rdCcr c s }, s)
  | .q2 => andThen (wrCcr c (t.v &&& ~~~0x1#32) s) fun s' => .next (none, t, s')

/-- Where `MAIN` is inside `ARM(c)` (R187). -/
def armPos : MainPos → ArmStep
  | .arm a => a
  | _ => .a1

/-- Where `MAIN` is inside `DISARM(c)` (R189). -/
def disarmPos : MainPos → DisarmStep
  | .disarm q => q
  | _ => .q1

/-! ## The commands -/

/-- `ARM_RX` (R187): steps `a1` to `a7`. -/
def execArmRx (s : State) : Out State :=
  mainStep .armRx .arm (fun _ => .nothing) (armStep .rx (armPos s.mainPos)) s

/-- `ARM_TX b` (R188): step `t0`, then `a1` to `a7`. -/
def execArmTx (b : Byte) (s : State) : Out State :=
  match s.mainPos with
  | .arm a => mainStep (.armTx b) .arm (fun _ => .nothing) (armStep .tx a) s
  | _ =>
    andThen (memWrite8 s.params.txCellAddr b s) fun s' =>
      .next (s'.mainAt (.armTx b) (.arm .a1) s.mainTemps)

/-- `DISARM_RX` (R189). -/
def execDisarmRx (s : State) : Out State :=
  mainStep .disarmRx .disarm (fun _ => .nothing) (disarmStep .rx (disarmPos s.mainPos)) s

/-- `DISARM_TX` (R189). -/
def execDisarmTx (s : State) : Out State :=
  mainStep .disarmTx .disarm (fun _ => .nothing) (disarmStep .tx (disarmPos s.mainPos)) s

/-- `CLRTC_RX` (R190). -/
def execClrtcRx (s : State) : Out State :=
  endWrite (.next (wrDmaIfcr (bitAt true (tcBit s.params .rx)) s))

/-- `CLRTC_TX` (R190). -/
def execClrtcTx (s : State) : Out State :=
  endWrite (.next (wrDmaIfcr (bitAt true (tcBit s.params .tx)) s))

end Sys2Proof.Machine
end

