-- ==== Sys2Proof/Machine/Mainline.lean ====
section
/-!
DEFINITION. Start-up and the mainline surface (spec/43_echo_coordinator.md sections 4 and 5): the
commands `INIT`, `IRQEN_DMA`, `IRQEN_ERR`, `DAVAIL`, `READ`, `STX`, `MLOOP`.
-/

namespace Sys2Proof.Machine

/-! ## Start-up -/

/-- `INIT baud` (R286): `CFGLINE baud`, then `i1`, then `ARM(RX)`. -/
def execInit (baud : Word) (s : State) : Out State :=
  match s.mainPos with
  | .i1 => .next ({ s with ienDma := true }.mainAt (.init baud) (.i2 .a1) s.mainTemps)
  | .i2 a => mainStep (.init baud) .i2 (fun _ => .nothing) (armStep .rx a) s
  | pos =>
    andThen (cfgStep baud (cfgPos pos) s.mainTemps s) fun (k, t, s') =>
      match k with
      | some k => .next (s'.mainAt (.init baud) (.cfg k) t)
      | none => .next (s'.mainAt (.init baud) .i1 t)

/-- `IRQEN_DMA` (R329). -/
def execIrqenDma (s : State) : Out State := .next ({ s with ienDma := true }.endMain .nothing)

/-- `IRQEN_ERR` (R329). -/
def execIrqenErr (s : State) : Out State := .next ({ s with ienErr := true }.endMain .nothing)

/-! ## The mainline surface -/

/-- `x[t] <- CO.rxComplete`: the one micro-step of `DAVAIL` (R280). -/
def davailStep (t : Temps) (s : State) : Temps := { t with t := s.rxComplete }

/-- One micro-step of `READ` (R281). -/
def readStep (m : ReadStep) (t : Temps) (s : State) : Micro ReadStep :=
  match m with
  | .m1 => andThen (memRead8 s.params.rxCellAddr s) fun b => .next (some .m2, { t with b := b }, s)
  | .m2 => .next (none, t, { s with rxComplete := false })

/-- One micro-step of `STX b` (R282).  The step `w1` spins while a transmit is in flight. -/
def stxStep (b : Byte) (k : StxStep) (t : Temps) (s : State) : Micro StxStep :=
  match k with
  | .w1 =>
    match s.params.txWaitMode with
    | .flag => .next (some (if s.txDone then .w2 else .w1), { t with t := s.txDone }, s)
    | .enbit =>
      .next (some (if (rdCcr .tx s).getLsbD 0 then .w1 else .w2), { t with v := rdCcr .tx s }, s)
  | .w2 => .next (some .w3, t, { s with txDone := false })
  | .w3 => andThen (memWrite8 s.params.txCellAddr b s) fun s' => .next (some (.w4 .a1), t, s')
  | .w4 a => andThen (armStep .tx a t s) fun (k, t, s') => .next (k.map .w4, t, s')

/-- Where `MAIN` is inside `READ` (R281). -/
def readPos : MainPos → ReadStep
  | .read m => m
  | _ => .m1

/-- Where `MAIN` is inside `STX` (R282). -/
def stxPos : MainPos → StxStep
  | .stx k => k
  | _ => .w1

/-- `DAVAIL` (R280): the result is the flag just read. -/
def execDavail (s : State) : Out State :=
  cooperativeOnly s (.next (s.endMain (.bit (davailStep s.mainTemps s).t)))

/-- `READ` (R281): the result is the byte read at `m1`. -/
def execRead (s : State) : Out State :=
  cooperativeOnly s
    (mainStep .read .read (fun t => .byte t.b) (readStep (readPos s.mainPos)) s)

/-- `STX b` (R282). -/
def execStx (b : Byte) (s : State) : Out State :=
  cooperativeOnly s
    (mainStep (.stx b) .stx (fun _ => .nothing) (stxStep b (stxPos s.mainPos)) s)

/-- `MLOOP` (R283): poll, read, transmit the byte read, and poll again; it never ends.  The steps
are those of the inner commands. -/
def execMloop (s : State) : Out State :=
  cooperativeOnly s
    (match s.mainPos with
    | .p2 m =>
      andThen (readStep m s.mainTemps s) fun (k, t, s') =>
        match k with
        | some m => .next (s'.mainAt .mloop (.p2 m) t)
        | none => .next (s'.mainAt .mloop (.p3 .w1) t)
    | .p3 k =>
      andThen (stxStep s.mainTemps.b k s.mainTemps s) fun (k, t, s') =>
        match k with
        | some k => .next (s'.mainAt .mloop (.p3 k) t)
        | none => .next (s'.mainAt .mloop .first t)
    | _ =>
      .next (s.mainAt .mloop (if s.rxComplete then .p2 .m1 else .first)
        (davailStep s.mainTemps s)))

end Sys2Proof.Machine
end

