-- ==== Sys2Proof/Machine/MemoryAccess.lean ====
section
/-!
DEFINITION. The two memory instructions (spec/20_memory.md R75 to R77).
-/

namespace Sys2Proof.Machine

/-- `RD8_MEM` (R75, R77). -/
def execRd8Mem (a : Word) (s : State) : Out State :=
  andThen (memRead8 a s) fun b => .next (s.endMain (.byte b))

/-- `WR8_MEM` (R76). -/
def execWr8Mem (a : Word) (b : Byte) (s : State) : Out State := endWrite (memWrite8 a b s)

end Sys2Proof.Machine
end

