-- ==== Sys2Proof/Machine/Dispatch.lean ====
section
/-!
DEFINITION. What each instruction does: one arm per constructor of Instr, one meaning per arm.
-/

namespace Sys2Proof.Machine

def exec (i : Instr) (s : State) : Host.Outcome State Fault Refusal :=
  match i with
  | .rdDmaIsr => Sys2Proof.Machine.execRdDmaIsr s
  | .wrDmaIsr w => Sys2Proof.Machine.execWrDmaIsr w s
  | .rdDmaIfcr => Sys2Proof.Machine.execRdDmaIfcr s
  | .wrDmaIfcr w => Sys2Proof.Machine.execWrDmaIfcr w s
  | .rdCcrRx => Sys2Proof.Machine.execRdCcrRx s
  | .wrCcrRx w => Sys2Proof.Machine.execWrCcrRx w s
  | .rdCcrTx => Sys2Proof.Machine.execRdCcrTx s
  | .wrCcrTx w => Sys2Proof.Machine.execWrCcrTx w s
  | .rdCndtrRx => Sys2Proof.Machine.execRdCndtrRx s
  | .wrCndtrRx w => Sys2Proof.Machine.execWrCndtrRx w s
  | .rdCndtrTx => Sys2Proof.Machine.execRdCndtrTx s
  | .wrCndtrTx w => Sys2Proof.Machine.execWrCndtrTx w s
  | .rdCparRx => Sys2Proof.Machine.execRdCparRx s
  | .wrCparRx w => Sys2Proof.Machine.execWrCparRx w s
  | .rdCparTx => Sys2Proof.Machine.execRdCparTx s
  | .wrCparTx w => Sys2Proof.Machine.execWrCparTx w s
  | .rdCmarRx => Sys2Proof.Machine.execRdCmarRx s
  | .wrCmarRx w => Sys2Proof.Machine.execWrCmarRx w s
  | .rdCmarTx => Sys2Proof.Machine.execRdCmarTx s
  | .wrCmarTx w => Sys2Proof.Machine.execWrCmarTx w s
  | .rdSlCr1 => Sys2Proof.Machine.execRdSlCr1 s
  | .wrSlCr1 w => Sys2Proof.Machine.execWrSlCr1 w s
  | .rdSlCr3 => Sys2Proof.Machine.execRdSlCr3 s
  | .wrSlCr3 w => Sys2Proof.Machine.execWrSlCr3 w s
  | .rdSlBrr => Sys2Proof.Machine.execRdSlBrr s
  | .wrSlBrr w => Sys2Proof.Machine.execWrSlBrr w s
  | .rdSlIsr => Sys2Proof.Machine.execRdSlIsr s
  | .wrSlIsr w => Sys2Proof.Machine.execWrSlIsr w s
  | .rdSlIcr => Sys2Proof.Machine.execRdSlIcr s
  | .wrSlIcr w => Sys2Proof.Machine.execWrSlIcr w s
  | .rdSlRdr32 => Sys2Proof.Machine.execRdSlRdr32 s
  | .rdSlRdr8 => Sys2Proof.Machine.execRdSlRdr8 s
  | .wrSlRdr32 w => Sys2Proof.Machine.execWrSlRdr32 w s
  | .wrSlRdr8 b => Sys2Proof.Machine.execWrSlRdr8 b s
  | .rdSlTdr32 => Sys2Proof.Machine.execRdSlTdr32 s
  | .rdSlTdr8 => Sys2Proof.Machine.execRdSlTdr8 s
  | .wrSlTdr32 w => Sys2Proof.Machine.execWrSlTdr32 w s
  | .wrSlTdr8 b => Sys2Proof.Machine.execWrSlTdr8 b s
  | .rd8Mem a => Sys2Proof.Machine.execRd8Mem a s
  | .wr8Mem a b => Sys2Proof.Machine.execWr8Mem a b s
  | .cfgLine baud => Sys2Proof.Machine.execCfgLine baud s
  | .init baud => Sys2Proof.Machine.execInit baud s
  | .irqenDma => Sys2Proof.Machine.execIrqenDma s
  | .irqenErr => Sys2Proof.Machine.execIrqenErr s
  | .armRx => Sys2Proof.Machine.execArmRx s
  | .armTx b => Sys2Proof.Machine.execArmTx b s
  | .disarmRx => Sys2Proof.Machine.execDisarmRx s
  | .disarmTx => Sys2Proof.Machine.execDisarmTx s
  | .clrtcRx => Sys2Proof.Machine.execClrtcRx s
  | .clrtcTx => Sys2Proof.Machine.execClrtcTx s
  | .davail => Sys2Proof.Machine.execDavail s
  | .read => Sys2Proof.Machine.execRead s
  | .stx b => Sys2Proof.Machine.execStx b s
  | .mloop => Sys2Proof.Machine.execMloop s

end Sys2Proof.Machine
end

