-- ==== Sys2Proof/Machine/Handlers.lean ====
section
/-!
DEFINITION. The two interrupt handlers (spec/43_echo_coordinator.md R262 to R267, R271): one
micro-step of each.
-/

namespace Sys2Proof.Machine

/-- `H_DMA` goes on to position `pos`. -/
def State.dmaAt (pos : DmaPos) (t : Temps) (s : State) : State :=
  { s with hDma := .active pos t }

/-- `H_ERR` goes on to position `pos`. -/
def State.errAt (pos : ErrPos) (t : Temps) (s : State) : State :=
  { s with hErr := .active pos t }

/-- One step of a sequence inside `H_DMA`: on to the step that follows in the sequence, or, after
its last, to `done`. -/
def dmaSeq {κ : Type} (wrap : κ → DmaPos) (done : DmaPos) (m : Micro κ) : Out State :=
  andThen m fun (k, t, s) =>
    match k with
    | some k => .next (s.dmaAt (wrap k) t)
    | none => .next (s.dmaAt done t)

/-- One micro-step of `H_DMA` at position `pos` with temporaries `t` (R262, R264 to R267). -/
def dmaStep (pos : DmaPos) (t : Temps) (s : State) : Out State :=
  match pos with
  | .d1 =>
    .next (s.dmaAt (if s.dmaIsr.getLsbD (tcBit s.params .tx) then .d2 else .d5)
      { t with s := s.dmaIsr })
  | .d2 =>
    .next ((wrDmaIfcr (bitAt true (tcBit s.params .tx)) s).dmaAt
      (if s.params.echoPolicy = .cooperative then .d3 else .d4 .q1) t)
  | .d3 => .next ({ s with txDone := true }.dmaAt (.d4 .q1) t)
  | .d4 q => dmaSeq .d4 .d5 (disarmStep .tx q t s)
  | .d5 =>
    .next (s.dmaAt (if s.dmaIsr.getLsbD (tcBit s.params .rx) then .d6 else .ret)
      { t with s := s.dmaIsr })
  | .d6 =>
    .next ((wrDmaIfcr (bitAt true (tcBit s.params .rx)) s).dmaAt
      (if s.params.echoPolicy = .cooperative then .coop7 else .auto7) t)
  | .coop7 => .next ({ s with rxComplete := true }.dmaAt (.coop8 .a1) t)
  | .coop8 a => dmaSeq .coop8 .ret (armStep .rx a t s)
  | .auto7 =>
    andThen (memRead8 s.params.rxCellAddr s) fun b => .next (s.dmaAt .auto8 { t with b := b })
  | .auto8 =>
    andThen (memWrite8 s.params.txCellAddr t.b s) fun s' => .next (s'.dmaAt (.auto9 .a1) t)
  | .auto9 a => dmaSeq .auto9 (.auto10 .a1) (armStep .tx a t s)
  | .auto10 a => dmaSeq .auto10 .ret (armStep .rx a t s)
  | .ret => .next (returnFrom .dma s)

/-- A test of `H_ERR` (R271): read `SL_ISR`; on to `seen` if bit `k` is set, to `clear` if not. -/
def errTest (k : Nat) (seen clear : ErrPos) (t : Temps) (s : State) : State :=
  s.errAt (if s.sl.isr.getLsbD k then seen else clear) { t with s := s.sl.isr }

/-- One micro-step of `H_ERR` at position `pos` with temporaries `t` (R271). -/
def errStep (pos : ErrPos) (t : Temps) (s : State) : Out State :=
  match pos with
  | .e1 => .next (errTest 3 .e2 .e3 t s)
  | .e2 => .next ((wrSlIcr 0x00000008#32 s).errAt .e3 t)
  | .e3 => .next (errTest 1 .e4 .e5 t s)
  | .e4 => .next ((wrSlIcr 0x00000002#32 s).errAt .e5 t)
  | .e5 => .next (errTest 2 .e6 .e7 t s)
  | .e6 => .next ((wrSlIcr 0x00000004#32 s).errAt .e7 t)
  | .e7 => .next (errTest 0 .e8 .ret t s)
  | .e8 => .next ((wrSlIcr 0x00000001#32 s).errAt .ret t)
  | .ret => .next (returnFrom .err s)

end Sys2Proof.Machine
end

