-- ==== Sys2Proof/Machine/Agents.lean ====
section
/-!
DEFINITION. The agents (spec/00_scope.md R6) and their steps: which step of the `CPU` is enabled
(spec/60_exceptions.md R332), the step of the HOST (spec/43_echo_coordinator.md R285), and the step
of the whole machine, one turn of the schedule.
-/

namespace Sys2Proof.Machine

/-! ## The `CPU` -/

/-- The only `CPU` step that is enabled with `URGENT` (R332), if there is one. -/
def State.urgentPick (s : State) : Option CpuPick :=
  if s.dueDma then some .enterDma
  else if s.hDma.isActive then some .runDma
  else if s.dueErr then some .enterErr
  else if s.hErr.isActive then some .runErr
  else if s.main.isRunning then some .runMain
  else none

/-- The `CPU` steps that are enabled with `LAX` (R332): each line when its own condition holds,
except that nothing preempts `H_DMA` and `MAIN` never steps while a handler is active (R334). -/
def State.laxEnabled (s : State) : CpuPick → Bool
  | .enterDma => s.dueDma
  | .runDma => s.hDma.isActive
  | .enterErr => s.dueErr && !s.hDma.isActive
  | .runErr => s.hErr.isActive && !s.hDma.isActive
  | .runMain => s.main.isRunning && !s.hDma.isActive && !s.hErr.isActive

/-- The `CPU` step that is taken: with `LAX` the pick of the schedule where it is enabled, else the
one of `URGENT`, which is enabled with `LAX` too. -/
def State.cpuPick (s : State) (pick : CpuPick) : Option CpuPick :=
  if s.params.irqSlack = .lax ∧ s.laxEnabled pick = true then some pick else s.urgentPick

/-- One micro-step of `MAIN`: the word it was given is decoded and the instruction executed. -/
def mainRun (s : State) : Out State :=
  match s.main with
  | .idle => .next s
  | .running w _ _ =>
    match decode s.params w with
    | .ok i => exec i s
    | .error e => .refused (refusalOf e)

/-- One micro-step of `H_DMA`, where it is active. -/
def dmaRun (s : State) : Out State :=
  match s.hDma with
  | .inactive => .next s
  | .active pos t => dmaStep pos t s

/-- One micro-step of `H_ERR`, where it is active. -/
def errRun (s : State) : Out State :=
  match s.hErr with
  | .inactive => .next s
  | .active pos t => errStep pos t s

/-- The step of the `CPU` (R332); where none is enabled its turn passes. -/
def cpuStep (pick : CpuPick) (s : State) : Out State :=
  match s.cpuPick pick with
  | some .enterDma => .next (enter .dma s)
  | some .runDma => dmaRun s
  | some .enterErr => .next (enter .err s)
  | some .runErr => errRun s
  | some .runMain => mainRun s
  | none => .next s

/-! ## The HOST -/

/-- The step of the HOST (R285): it gives an idle `MAIN` its next word; where `MAIN` runs or no word
is left its turn passes. -/
def hostStep (s : State) : State :=
  match s.main, s.hostWords with
  | .idle, w :: rest => { s with main := .running w .first .fresh, hostWords := rest }
  | _, _ => s

/-! ## The machine -/

/-- The step of the agent whose turn it is; the turn of an agent with no enabled step passes. -/
def agentStep (turn : Turn) (s : State) : Out State :=
  match turn with
  | .ch c => if s.granted c then xfer c s else .next s
  | .slrx => .next (slrxStep s)
  | .sltx => .next (emitStep s)
  | .cpu pick => cpuStep pick s
  | .host => .next (hostStep s)

/-- The turn the schedule gives next: the first one listed, else a free one (log entry 5). -/
def State.nextTurn (s : State) : Turn :=
  match s.sched with
  | [] => Config.freeTurn s.freeTurns
  | turn :: _ => turn

/-- The schedule after its next turn has been taken. -/
def State.afterTurn (s : State) : State :=
  match s.sched with
  | [] => { s with freeTurns := s.freeTurns + 1 }
  | _ :: rest => { s with sched := rest }

/-- What a step leaves behind: a fault or a refusal is recorded in its mark and changes nothing else
(R321, R322). -/
def record (s : State) (o : Out State) : State :=
  match o with
  | .next s' => s'
  | .fault r => { s with faultMark := some r }
  | .refused r => { s with refusedMark := some r }

/-- One step of the machine.  Where `FAULT` or `REFUSED` is set no agent has a step and the run is
over (R321, R322): the step answers the mark. -/
def machineStep (s : State) : Out State :=
  match s.faultMark, s.refusedMark with
  | some r, _ => .fault r
  | none, some r => .refused r
  | none, none => .next (record s.afterTurn (agentStep s.nextTurn s.afterTurn))

/-- `MAIN` holds word `w`, nothing stands before it, and the next turn is the `CPU`'s. -/
def placeWord (w : OpWord) (s : State) : State :=
  { s with
    main := .running w .first .fresh
    hDma := .inactive
    hErr := .inactive
    ienDma := s.ienDma && !s.irqDma
    ienErr := s.ienErr && !s.sl.irqErr
    faultMark := none
    refusedMark := none
    sched := .cpu .runMain :: s.sched }

end Sys2Proof.Machine
end

