-- ==== Sys2Proof/Machine/Step.lean ====
section
/-!
DEFINITION. The step of the machine, and the placing of one operation word where the next step
fetches it.
-/

namespace Sys2Proof.Machine

/-- One step: one turn of the schedule. -/
def step (s : State) : Host.Outcome State Fault Refusal := machineStep s

/-- `s` with the operation word whose bits are `w` given to `MAIN`, the next turn the
`CPU`'s, and nothing in the way of it: no handler active, no enabled interrupt line up, no
mark set (log entry 9). -/
def State.withFetchWord (s : State) (_nbits w : Nat) : State :=
  placeWord (BitVec.ofNat 72 w) s

end Sys2Proof.Machine
end

