-- ==== Sys2Proof/Safety.lean ====
section
/-!
DEFINITION. The terms claims are stated in: several steps in a row, the derived channel states
(spec/41_transfer_engine.md R171), the invariant of the machine, the good and the bad ends of a run
(spec/70_reset_and_hazards.md R383), a spin (spec/60_exceptions.md R323), the spacing of input
(R374), and the fairness of a schedule (R381).
-/

namespace Sys2Proof.Machine

/-! ## Several steps in a row -/

/-- `k` steps of `f`, one after another, as long as each answers a next state. -/
def repeatOut (f : State → Out State) : Nat → State → Out State
  | 0, s => .next s
  | k + 1, s => andThen (f s) (repeatOut f k)

/-! ## Derived channel states -/

/-- Disabled (R171). -/
def Chan.disabled (x : Chan) : Bool := !x.en

/-- Exhausted (R171): enabled, with the one transfer done. -/
def Chan.exhausted (x : Chan) : Bool := x.en && x.ndt == 0#16

/-! ## The invariant -/

/-- What holds of a channel in every state a run reaches: reserved bits are 0 (R21), and while it is
enabled its count is 0 or 1 (R138) and its direction and addresses are its role's (R136). -/
structure ChanInv (p : Params) (c : Role) (x : Chan) : Prop where
  reserved : x.ccr &&& ~~~ccrMask = 0#32
  count : x.en = true → x.ndt.toNat ≤ 1
  bound : x.en = true → legalConfig p c x x.ccr = true

/-- The position of `H_DMA` exists in the variant (R262, R266, R267). -/
def DmaPos.inVariant (e : EchoPolicy) : DmaPos → Bool
  | .d3 | .coop7 | .coop8 _ => decide (e = .cooperative)
  | .auto7 | .auto8 | .auto9 _ | .auto10 _ => decide (e = .autonomous)
  | _ => true

/-- What holds in every state a run reaches. -/
structure Inv (s : State) : Prop where
  /-- The launch parameters are in their ranges (R5). -/
  params : s.params.Wf
  /-- The memory has its canonical form. -/
  canonical : Memory.wf s.mem
  /-- Every byte of `MEM` lies in RAM (R40). -/
  inRam : ∀ x ∈ s.mem,
    s.params.ramBase.toNat ≤ x.1 ∧ x.1 < s.params.ramBase.toNat + s.params.ramSize
  /-- The receive channel. -/
  rx : ChanInv s.params .rx s.rx
  /-- The transmit channel. -/
  tx : ChanInv s.params .tx s.tx
  /-- The reserved bits of `SL_CR1` are 0 (R30). -/
  cr1 : s.sl.cr1 &&& ~~~cr1Mask = 0#32
  /-- The reserved bits of `SL_CR3` are 0 (R31). -/
  cr3 : s.sl.cr3 &&& ~~~cr3Mask = 0#32
  /-- A run ends with at most one mark (R321, R322). -/
  oneMark : s.faultMark = none ∨ s.refusedMark = none
  /-- `H_DMA` is at a position of the variant that is built (R260). -/
  variant : ∀ pos t, s.hDma = .active pos t → pos.inVariant s.params.echoPolicy = true
  /-- In the autonomous variant the hand-off flags are never touched (R45). -/
  noFlags : s.params.echoPolicy = .autonomous → s.rxComplete = false ∧ s.txDone = true

/-! ## Ends of a run -/

/-- `MAIN` is in `MLOOP` at `p1` (R283). -/
def State.polling (s : State) : Bool :=
  match s.main with
  | .running w .first _ => decide (decode s.params w = .ok .mloop)
  | _ => false

/-- Quiescent: a good end of a test run (R383). -/
def State.quiescent (s : State) : Bool :=
  s.faultMark.isNone && s.refusedMark.isNone && s.rxWire.isEmpty &&
    !s.ready .rx && !s.ready .tx && s.sl.txe && !s.dueDma && !s.dueErr &&
    !s.hDma.isActive && !s.hErr.isActive &&
    (!s.main.isRunning || s.polling && !s.rxComplete)

/-- A bad end: a fault or a refusal is recorded (R383). -/
def State.badEnd (s : State) : Bool := s.faultMark.isSome || s.refusedMark.isSome

/-- The test of `STX` at `w1` says that a transmit is in flight, so the step spins (R282, R323). -/
def State.transmitInFlight (s : State) : Bool :=
  match s.params.txWaitMode with
  | .flag => !s.txDone
  | .enbit => s.tx.en

/-! ## The spacing of input (R374)

An observer follows the byte of the last frame from `SL_RDR` to the completion of its own transfer to
`SL_TDR`, so that the transmission of another byte is never taken for its echo (log entry 18). -/

/-- How far the echo of a stored frame has come. -/
inductive EchoStage where
  /-- The byte waits in `SL_RDR`. -/
  | received
  /-- `XFER(RX)` has moved it to `rxCell`. -/
  | moved
  /-- `d7` of the autonomous `H_DMA`, or `m1` of `READ`, has read it. -/
  | taken
  /-- `d8`, or `w3` of `STX`, has written it to `txCell`. -/
  | copied
  /-- `d9`, or `w4`, has armed the transmit channel for it: in the cooperative variant its `STX` has
  ended. -/
  | armed
  /-- `XFER(TX)` has moved it to `SL_TDR`; its completion is pending. -/
  | sent
  /-- `H_DMA` has cleared its completion flag at `d2`. -/
  | served
  /-- Its echo can no longer end: the frame was dropped without a mark, or the channel armed for it
  was disabled, moved another byte, or had its flag cleared outside `H_DMA`. -/
  | lost
  deriving DecidableEq, Repr

/-- What the observer remembers of the echo of the last frame. -/
inductive Echo where
  | idle
  | pending (data : Byte) (stage : EchoStage)
  deriving DecidableEq, Repr

/-- `H_DMA` is active at position `pos`. -/
def State.dmaIsAt (s : State) (pos : DmaPos) : Bool :=
  match s.hDma with
  | .active q _ => decide (q = pos)
  | .inactive => false

/-- A frame left the wire in the step from `s` to `s'`. -/
def frameGone (s s' : State) : Bool := decide (s'.rxWire.length < s.rxWire.length)

/-- The step from `s` to `s'` is the transfer of channel `c`. -/
def transferred (c : Role) (s s' : State) : Bool :=
  decide (s.nextTurn = .ch c) && s.granted c && (s'.chan c).ndt == 0#16

/-- The step from `s` to `s'` reads `rxCell` for the echo: `d7` of the autonomous `H_DMA`, or `m1` of
`READ`, alone or inside `MLOOP`. -/
def takesByte (s s' : State) : Bool :=
  s.dmaIsAt .auto7 && s'.dmaIsAt .auto8 ||
    decide (s.mainPos ≠ .read .m2) && decide (s'.mainPos = .read .m2) ||
    decide (s.mainPos = .p2 .m1) && decide (s'.mainPos = .p2 .m2)

/-- The step from `s` to `s'` writes `txCell` for an echo: `d8` of the autonomous `H_DMA`, or `w3` of
`STX`. -/
def copiesByte (s s' : State) : Bool :=
  s.dmaIsAt .auto8 && s'.dmaIsAt (.auto9 .a1) ||
    decide (s.mainPos = .stx .w3) && decide (s'.mainPos = .stx (.w4 .a1)) ||
    decide (s.mainPos = .p3 .w3) && decide (s'.mainPos = .p3 (.w4 .a1))

/-- The step from `s` to `s'` ends the arming of the transmit channel for an echo: `a7` of `d9`, or of
`w4`, the end of `STX`. -/
def endsArming (s s' : State) : Bool :=
  s.dmaIsAt (.auto9 .a7) && s'.dmaIsAt (.auto10 .a1) ||
    decide (s.mainPos = .stx (.w4 .a7)) && decide (s'.main = .idle) ||
    decide (s.mainPos = .p3 (.w4 .a7)) && decide (s'.mainPos = .first)

/-- The step from `s` to `s'` ends the service of a transmit completion: in the autonomous variant the
invocation of `H_DMA` returns; in the cooperative variant its branch `d2` to `d4` (R264) ends. -/
def endsService (s s' : State) : Bool :=
  match s.params.echoPolicy with
  | .autonomous => s.dmaIsAt .ret && !s'.hDma.isActive
  | .cooperative => s.dmaIsAt (.d4 .q2) && s'.dmaIsAt .d5

/-- The stage after the step from `s` to `s'`, `none` where the echo has ended. -/
def EchoStage.next (data : Byte) (s s' : State) : EchoStage → Option EchoStage
  | .received => some (if transferred .rx s s' then .moved else .received)
  | .moved => some (if takesByte s s' then .taken else .moved)
  | .taken =>
    some (if copiesByte s s' && decide (s'.byteAt s.params.txCellAddr = some data) then .copied
      else .taken)
  | .copied => some (if endsArming s s' then .armed else .copied)
  | .armed =>
    some (if transferred .tx s s' then (if s'.sl.tdr = data then .sent else .lost)
      else if s'.tx.en then .armed else .lost)
  | .sent =>
    some (if s.dmaIsAt .d2 && !s'.dmaIsAt .d2 then .served
      else if s'.tx.tcif then .sent else .lost)
  | .served => if endsService s s' then none else some .served
  | .lost => some .lost

/-- The echo goes on by the step from `s` to `s'`. -/
def Echo.goesOn (s s' : State) : Echo → Echo
  | .idle => .idle
  | .pending data stage =>
    match stage.next data s s' with
    | some stage => .pending data stage
    | none => .idle

/-- What the observer remembers after the step from `s` to `s'`.  A stored frame starts an echo, a
frame with a mark has none, and any other dropped frame has one that cannot end. -/
def Echo.after (e : Echo) (s s' : State) : Echo :=
  match frameGone s s', s.rxWire with
  | true, f :: _ =>
    if s.sl.rxne = false ∧ s'.sl.rxne = true then .pending f.data .received
    else if f.fe || f.nf || f.pe then e.goesOn s s'
    else .pending f.data .lost
  | _, _ => e.goesOn s s'

/-- `Spaced` (R374) of a run given as the list of its states: no frame arrives while the echo of an
earlier one is pending. -/
def spaced (e : Echo) : List State → Bool
  | s :: s' :: rest =>
    (!frameGone s s' || decide (e = .idle)) && spaced (e.after s s') (s' :: rest)
  | _ => true

/-! ## Fairness (R381) -/

/-- The agents (R6). -/
inductive Agent where
  | ch (c : Role)
  | slrx
  | sltx
  | cpu
  | host
  deriving DecidableEq, Repr

/-- The agent whose turn it is. -/
def agentOf : Turn → Agent
  | .ch c => .ch c
  | .slrx => .slrx
  | .sltx => .sltx
  | .cpu _ => .cpu
  | .host => .host

/-- The agents that fairness binds: "The `HOST` and the wire are under no such duty" (R381). -/
def Agent.bound : Agent → Bool
  | .ch _ | .sltx | .cpu => true
  | .slrx | .host => false

/-- Agent `a` has an enabled step (R176, R228, R230, R332, R285); with a mark set none has (R321,
R322). -/
def State.hasStep (s : State) (a : Agent) : Bool :=
  !s.badEnd &&
    match a with
    | .ch c => s.granted c
    | .slrx => !s.rxWire.isEmpty
    | .sltx => s.sl.ue && s.sl.te && !s.sl.txe
    | .cpu => s.urgentPick.isSome
    | .host => !s.main.isRunning && !s.hostWords.isEmpty

/-- Weak fairness (R381) of a run, given by its turns and its states: an agent whose step stays
enabled is eventually scheduled. -/
def WeaklyFair (turns : Nat → Turn) (run : Nat → State) : Prop :=
  ∀ a : Agent, a.bound = true → ∀ n : Nat,
    (∀ m, n ≤ m → (run m).hasStep a = true) → ∃ m, n ≤ m ∧ agentOf (turns m) = a

/-- The state a step leads to; a run that has ended stays where it is. -/
def State.onward (s : State) : State :=
  match step s with
  | .next s' => s'
  | .fault _ => s
  | .refused _ => s

/-- The run of the machine from `s`: the state after `n` steps. -/
def runFrom (s : State) : Nat → State
  | 0 => s
  | n + 1 => (runFrom s n).onward

/-- The run of the machine from `s` is weakly fair (R381). -/
def Fair (s : State) : Prop := WeaklyFair (fun n => (runFrom s n).nextTurn) (runFrom s)

/-- The state after `turn`, whatever turns the state lists. -/
def State.advance (turn : Turn) (s : State) : State := { s with sched := [turn] }.onward

/-- The run from `s` along the infinite schedule `turns`: the state after `n` turns. -/
def runOn (turns : Nat → Turn) (s : State) : Nat → State
  | 0 => s
  | n + 1 => (runOn turns s n).advance (turns n)

/-- Turn `t` in state `s` is a `CPU` step of a context less urgent than handler `h`. -/
def isLate (h : HandlerId) (t : Turn) (s : State) : Bool :=
  match t with
  | .cpu pick =>
    match h, s.cpuPick pick with
    | .dma, some .enterErr => true
    | .dma, some .runErr => true
    | _, some .runMain => true
    | _, _ => false
  | _ => false

/-- The interrupt of handler `h` is due (R330). -/
def State.due (s : State) : HandlerId → Bool
  | .dma => s.dueDma
  | .err => s.dueErr

/-- R331 of `LAX`, of a run given by its turns and its states: an interrupt that stays due lets less
urgent contexts take only finitely many further micro-steps. -/
def FiniteSlack (turns : Nat → Turn) (run : Nat → State) : Prop :=
  ∀ (h : HandlerId) (n : Nat), (∀ m, n ≤ m → (run m).due h = true) →
    ∃ k, ∀ m, k ≤ m → isLate h (turns m) (run m) = false

end Sys2Proof.Machine
end

