-- ==== Sys2Proof/Laws/State.lean ====
section
/-!
SUPPORT. The fields of the state after each named update: one lemma per field per update.
-/

namespace Sys2Proof.Machine

variable (s : State)

/-! ## `setChan` -/

@[simp] theorem setChan_params (c : Role) (x : Chan) : (s.setChan c x).params = s.params :=
  by cases c <;> rfl
@[simp] theorem setChan_sl (c : Role) (x : Chan) : (s.setChan c x).sl = s.sl :=
  by cases c <;> rfl
@[simp] theorem setChan_mem (c : Role) (x : Chan) : (s.setChan c x).mem = s.mem :=
  by cases c <;> rfl
@[simp] theorem setChan_rxComplete (c : Role) (x : Chan) : (s.setChan c x).rxComplete = s.rxComplete :=
  by cases c <;> rfl
@[simp] theorem setChan_txDone (c : Role) (x : Chan) : (s.setChan c x).txDone = s.txDone :=
  by cases c <;> rfl
@[simp] theorem setChan_ienDma (c : Role) (x : Chan) : (s.setChan c x).ienDma = s.ienDma :=
  by cases c <;> rfl
@[simp] theorem setChan_ienErr (c : Role) (x : Chan) : (s.setChan c x).ienErr = s.ienErr :=
  by cases c <;> rfl
@[simp] theorem setChan_hDma (c : Role) (x : Chan) : (s.setChan c x).hDma = s.hDma :=
  by cases c <;> rfl
@[simp] theorem setChan_hErr (c : Role) (x : Chan) : (s.setChan c x).hErr = s.hErr :=
  by cases c <;> rfl
@[simp] theorem setChan_main (c : Role) (x : Chan) : (s.setChan c x).main = s.main :=
  by cases c <;> rfl
@[simp] theorem setChan_rxWire (c : Role) (x : Chan) : (s.setChan c x).rxWire = s.rxWire :=
  by cases c <;> rfl
@[simp] theorem setChan_txLine (c : Role) (x : Chan) : (s.setChan c x).txLine = s.txLine :=
  by cases c <;> rfl
@[simp] theorem setChan_faultMark (c : Role) (x : Chan) : (s.setChan c x).faultMark = s.faultMark :=
  by cases c <;> rfl
@[simp] theorem setChan_refusedMark (c : Role) (x : Chan) : (s.setChan c x).refusedMark = s.refusedMark :=
  by cases c <;> rfl
@[simp] theorem setChan_hostWords (c : Role) (x : Chan) : (s.setChan c x).hostWords = s.hostWords :=
  by cases c <;> rfl
@[simp] theorem setChan_results (c : Role) (x : Chan) : (s.setChan c x).results = s.results :=
  by cases c <;> rfl
@[simp] theorem setChan_sched (c : Role) (x : Chan) : (s.setChan c x).sched = s.sched :=
  by cases c <;> rfl
@[simp] theorem setChan_freeTurns (c : Role) (x : Chan) : (s.setChan c x).freeTurns = s.freeTurns :=
  by cases c <;> rfl

/-! ## `mainAt` -/

@[simp] theorem mainAt_params (i : Instr) (pos : MainPos) (t : Temps) : (s.mainAt i pos t).params = s.params :=
  by unfold State.mainAt; split <;> rfl
@[simp] theorem mainAt_rx (i : Instr) (pos : MainPos) (t : Temps) : (s.mainAt i pos t).rx = s.rx :=
  by unfold State.mainAt; split <;> rfl
@[simp] theorem mainAt_tx (i : Instr) (pos : MainPos) (t : Temps) : (s.mainAt i pos t).tx = s.tx :=
  by unfold State.mainAt; split <;> rfl
@[simp] theorem mainAt_sl (i : Instr) (pos : MainPos) (t : Temps) : (s.mainAt i pos t).sl = s.sl :=
  by unfold State.mainAt; split <;> rfl
@[simp] theorem mainAt_mem (i : Instr) (pos : MainPos) (t : Temps) : (s.mainAt i pos t).mem = s.mem :=
  by unfold State.mainAt; split <;> rfl
@[simp] theorem mainAt_rxComplete (i : Instr) (pos : MainPos) (t : Temps) : (s.mainAt i pos t).rxComplete = s.rxComplete :=
  by unfold State.mainAt; split <;> rfl
@[simp] theorem mainAt_txDone (i : Instr) (pos : MainPos) (t : Temps) : (s.mainAt i pos t).txDone = s.txDone :=
  by unfold State.mainAt; split <;> rfl
@[simp] theorem mainAt_ienDma (i : Instr) (pos : MainPos) (t : Temps) : (s.mainAt i pos t).ienDma = s.ienDma :=
  by unfold State.mainAt; split <;> rfl
@[simp] theorem mainAt_ienErr (i : Instr) (pos : MainPos) (t : Temps) : (s.mainAt i pos t).ienErr = s.ienErr :=
  by unfold State.mainAt; split <;> rfl
@[simp] theorem mainAt_hDma (i : Instr) (pos : MainPos) (t : Temps) : (s.mainAt i pos t).hDma = s.hDma :=
  by unfold State.mainAt; split <;> rfl
@[simp] theorem mainAt_hErr (i : Instr) (pos : MainPos) (t : Temps) : (s.mainAt i pos t).hErr = s.hErr :=
  by unfold State.mainAt; split <;> rfl
@[simp] theorem mainAt_rxWire (i : Instr) (pos : MainPos) (t : Temps) : (s.mainAt i pos t).rxWire = s.rxWire :=
  by unfold State.mainAt; split <;> rfl
@[simp] theorem mainAt_txLine (i : Instr) (pos : MainPos) (t : Temps) : (s.mainAt i pos t).txLine = s.txLine :=
  by unfold State.mainAt; split <;> rfl
@[simp] theorem mainAt_faultMark (i : Instr) (pos : MainPos) (t : Temps) : (s.mainAt i pos t).faultMark = s.faultMark :=
  by unfold State.mainAt; split <;> rfl
@[simp] theorem mainAt_refusedMark (i : Instr) (pos : MainPos) (t : Temps) : (s.mainAt i pos t).refusedMark = s.refusedMark :=
  by unfold State.mainAt; split <;> rfl
@[simp] theorem mainAt_hostWords (i : Instr) (pos : MainPos) (t : Temps) : (s.mainAt i pos t).hostWords = s.hostWords :=
  by unfold State.mainAt; split <;> rfl
@[simp] theorem mainAt_results (i : Instr) (pos : MainPos) (t : Temps) : (s.mainAt i pos t).results = s.results :=
  by unfold State.mainAt; split <;> rfl
@[simp] theorem mainAt_sched (i : Instr) (pos : MainPos) (t : Temps) : (s.mainAt i pos t).sched = s.sched :=
  by unfold State.mainAt; split <;> rfl
@[simp] theorem mainAt_freeTurns (i : Instr) (pos : MainPos) (t : Temps) : (s.mainAt i pos t).freeTurns = s.freeTurns :=
  by unfold State.mainAt; split <;> rfl

/-! ## `endMain` -/

@[simp] theorem endMain_params (r : Result) : (s.endMain r).params = s.params := rfl
@[simp] theorem endMain_rx (r : Result) : (s.endMain r).rx = s.rx := rfl
@[simp] theorem endMain_tx (r : Result) : (s.endMain r).tx = s.tx := rfl
@[simp] theorem endMain_sl (r : Result) : (s.endMain r).sl = s.sl := rfl
@[simp] theorem endMain_mem (r : Result) : (s.endMain r).mem = s.mem := rfl
@[simp] theorem endMain_rxComplete (r : Result) : (s.endMain r).rxComplete = s.rxComplete := rfl
@[simp] theorem endMain_txDone (r : Result) : (s.endMain r).txDone = s.txDone := rfl
@[simp] theorem endMain_ienDma (r : Result) : (s.endMain r).ienDma = s.ienDma := rfl
@[simp] theorem endMain_ienErr (r : Result) : (s.endMain r).ienErr = s.ienErr := rfl
@[simp] theorem endMain_hDma (r : Result) : (s.endMain r).hDma = s.hDma := rfl
@[simp] theorem endMain_hErr (r : Result) : (s.endMain r).hErr = s.hErr := rfl
@[simp] theorem endMain_main (r : Result) : (s.endMain r).main = .idle := rfl
@[simp] theorem endMain_rxWire (r : Result) : (s.endMain r).rxWire = s.rxWire := rfl
@[simp] theorem endMain_txLine (r : Result) : (s.endMain r).txLine = s.txLine := rfl
@[simp] theorem endMain_faultMark (r : Result) : (s.endMain r).faultMark = s.faultMark := rfl
@[simp] theorem endMain_refusedMark (r : Result) : (s.endMain r).refusedMark = s.refusedMark := rfl
@[simp] theorem endMain_hostWords (r : Result) : (s.endMain r).hostWords = s.hostWords := rfl
@[simp] theorem endMain_results (r : Result) : (s.endMain r).results = s.results ++ [r] := rfl
@[simp] theorem endMain_sched (r : Result) : (s.endMain r).sched = s.sched := rfl
@[simp] theorem endMain_freeTurns (r : Result) : (s.endMain r).freeTurns = s.freeTurns := rfl

/-! ## `dmaAt` -/

@[simp] theorem dmaAt_params (pos : DmaPos) (t : Temps) : (s.dmaAt pos t).params = s.params := rfl
@[simp] theorem dmaAt_rx (pos : DmaPos) (t : Temps) : (s.dmaAt pos t).rx = s.rx := rfl
@[simp] theorem dmaAt_tx (pos : DmaPos) (t : Temps) : (s.dmaAt pos t).tx = s.tx := rfl
@[simp] theorem dmaAt_sl (pos : DmaPos) (t : Temps) : (s.dmaAt pos t).sl = s.sl := rfl
@[simp] theorem dmaAt_mem (pos : DmaPos) (t : Temps) : (s.dmaAt pos t).mem = s.mem := rfl
@[simp] theorem dmaAt_rxComplete (pos : DmaPos) (t : Temps) : (s.dmaAt pos t).rxComplete = s.rxComplete :=
  rfl
@[simp] theorem dmaAt_txDone (pos : DmaPos) (t : Temps) : (s.dmaAt pos t).txDone = s.txDone := rfl
@[simp] theorem dmaAt_ienDma (pos : DmaPos) (t : Temps) : (s.dmaAt pos t).ienDma = s.ienDma := rfl
@[simp] theorem dmaAt_ienErr (pos : DmaPos) (t : Temps) : (s.dmaAt pos t).ienErr = s.ienErr := rfl
@[simp] theorem dmaAt_hDma (pos : DmaPos) (t : Temps) : (s.dmaAt pos t).hDma = .active pos t := rfl
@[simp] theorem dmaAt_hErr (pos : DmaPos) (t : Temps) : (s.dmaAt pos t).hErr = s.hErr := rfl
@[simp] theorem dmaAt_main (pos : DmaPos) (t : Temps) : (s.dmaAt pos t).main = s.main := rfl
@[simp] theorem dmaAt_rxWire (pos : DmaPos) (t : Temps) : (s.dmaAt pos t).rxWire = s.rxWire := rfl
@[simp] theorem dmaAt_txLine (pos : DmaPos) (t : Temps) : (s.dmaAt pos t).txLine = s.txLine := rfl
@[simp] theorem dmaAt_faultMark (pos : DmaPos) (t : Temps) : (s.dmaAt pos t).faultMark = s.faultMark :=
  rfl
@[simp] theorem dmaAt_refusedMark (pos : DmaPos) (t : Temps) : (s.dmaAt pos t).refusedMark = s.refusedMark :=
  rfl
@[simp] theorem dmaAt_hostWords (pos : DmaPos) (t : Temps) : (s.dmaAt pos t).hostWords = s.hostWords :=
  rfl
@[simp] theorem dmaAt_results (pos : DmaPos) (t : Temps) : (s.dmaAt pos t).results = s.results :=
  rfl
@[simp] theorem dmaAt_sched (pos : DmaPos) (t : Temps) : (s.dmaAt pos t).sched = s.sched := rfl
@[simp] theorem dmaAt_freeTurns (pos : DmaPos) (t : Temps) : (s.dmaAt pos t).freeTurns = s.freeTurns :=
  rfl

/-! ## `errAt` -/

@[simp] theorem errAt_params (pos : ErrPos) (t : Temps) : (s.errAt pos t).params = s.params := rfl
@[simp] theorem errAt_rx (pos : ErrPos) (t : Temps) : (s.errAt pos t).rx = s.rx := rfl
@[simp] theorem errAt_tx (pos : ErrPos) (t : Temps) : (s.errAt pos t).tx = s.tx := rfl
@[simp] theorem errAt_sl (pos : ErrPos) (t : Temps) : (s.errAt pos t).sl = s.sl := rfl
@[simp] theorem errAt_mem (pos : ErrPos) (t : Temps) : (s.errAt pos t).mem = s.mem := rfl
@[simp] theorem errAt_rxComplete (pos : ErrPos) (t : Temps) : (s.errAt pos t).rxComplete = s.rxComplete :=
  rfl
@[simp] theorem errAt_txDone (pos : ErrPos) (t : Temps) : (s.errAt pos t).txDone = s.txDone := rfl
@[simp] theorem errAt_ienDma (pos : ErrPos) (t : Temps) : (s.errAt pos t).ienDma = s.ienDma := rfl
@[simp] theorem errAt_ienErr (pos : ErrPos) (t : Temps) : (s.errAt pos t).ienErr = s.ienErr := rfl
@[simp] theorem errAt_hDma (pos : ErrPos) (t : Temps) : (s.errAt pos t).hDma = s.hDma := rfl
@[simp] theorem errAt_hErr (pos : ErrPos) (t : Temps) : (s.errAt pos t).hErr = .active pos t := rfl
@[simp] theorem errAt_main (pos : ErrPos) (t : Temps) : (s.errAt pos t).main = s.main := rfl
@[simp] theorem errAt_rxWire (pos : ErrPos) (t : Temps) : (s.errAt pos t).rxWire = s.rxWire := rfl
@[simp] theorem errAt_txLine (pos : ErrPos) (t : Temps) : (s.errAt pos t).txLine = s.txLine := rfl
@[simp] theorem errAt_faultMark (pos : ErrPos) (t : Temps) : (s.errAt pos t).faultMark = s.faultMark :=
  rfl
@[simp] theorem errAt_refusedMark (pos : ErrPos) (t : Temps) : (s.errAt pos t).refusedMark = s.refusedMark :=
  rfl
@[simp] theorem errAt_hostWords (pos : ErrPos) (t : Temps) : (s.errAt pos t).hostWords = s.hostWords :=
  rfl
@[simp] theorem errAt_results (pos : ErrPos) (t : Temps) : (s.errAt pos t).results = s.results :=
  rfl
@[simp] theorem errAt_sched (pos : ErrPos) (t : Temps) : (s.errAt pos t).sched = s.sched := rfl
@[simp] theorem errAt_freeTurns (pos : ErrPos) (t : Temps) : (s.errAt pos t).freeTurns = s.freeTurns :=
  rfl

/-! ## `takeRdr` -/

@[simp] theorem takeRdr_params : (takeRdr s).params = s.params := rfl
@[simp] theorem takeRdr_rx : (takeRdr s).rx = s.rx := rfl
@[simp] theorem takeRdr_tx : (takeRdr s).tx = s.tx := rfl
@[simp] theorem takeRdr_sl : (takeRdr s).sl = { s.sl with rxne := false } := rfl
@[simp] theorem takeRdr_mem : (takeRdr s).mem = s.mem := rfl
@[simp] theorem takeRdr_rxComplete : (takeRdr s).rxComplete = s.rxComplete := rfl
@[simp] theorem takeRdr_txDone : (takeRdr s).txDone = s.txDone := rfl
@[simp] theorem takeRdr_ienDma : (takeRdr s).ienDma = s.ienDma := rfl
@[simp] theorem takeRdr_ienErr : (takeRdr s).ienErr = s.ienErr := rfl
@[simp] theorem takeRdr_hDma : (takeRdr s).hDma = s.hDma := rfl
@[simp] theorem takeRdr_hErr : (takeRdr s).hErr = s.hErr := rfl
@[simp] theorem takeRdr_main : (takeRdr s).main = s.main := rfl
@[simp] theorem takeRdr_rxWire : (takeRdr s).rxWire = s.rxWire := rfl
@[simp] theorem takeRdr_txLine : (takeRdr s).txLine = s.txLine := rfl
@[simp] theorem takeRdr_faultMark : (takeRdr s).faultMark = s.faultMark := rfl
@[simp] theorem takeRdr_refusedMark : (takeRdr s).refusedMark = s.refusedMark := rfl
@[simp] theorem takeRdr_hostWords : (takeRdr s).hostWords = s.hostWords := rfl
@[simp] theorem takeRdr_results : (takeRdr s).results = s.results := rfl
@[simp] theorem takeRdr_sched : (takeRdr s).sched = s.sched := rfl
@[simp] theorem takeRdr_freeTurns : (takeRdr s).freeTurns = s.freeTurns := rfl

/-! ## `putTdr` -/

@[simp] theorem putTdr_params (b : Byte) : (putTdr b s).params = s.params := rfl
@[simp] theorem putTdr_rx (b : Byte) : (putTdr b s).rx = s.rx := rfl
@[simp] theorem putTdr_tx (b : Byte) : (putTdr b s).tx = s.tx := rfl
@[simp] theorem putTdr_sl (b : Byte) : (putTdr b s).sl = { s.sl with tdr := b, txe := false } :=
  rfl
@[simp] theorem putTdr_mem (b : Byte) : (putTdr b s).mem = s.mem := rfl
@[simp] theorem putTdr_rxComplete (b : Byte) : (putTdr b s).rxComplete = s.rxComplete := rfl
@[simp] theorem putTdr_txDone (b : Byte) : (putTdr b s).txDone = s.txDone := rfl
@[simp] theorem putTdr_ienDma (b : Byte) : (putTdr b s).ienDma = s.ienDma := rfl
@[simp] theorem putTdr_ienErr (b : Byte) : (putTdr b s).ienErr = s.ienErr := rfl
@[simp] theorem putTdr_hDma (b : Byte) : (putTdr b s).hDma = s.hDma := rfl
@[simp] theorem putTdr_hErr (b : Byte) : (putTdr b s).hErr = s.hErr := rfl
@[simp] theorem putTdr_main (b : Byte) : (putTdr b s).main = s.main := rfl
@[simp] theorem putTdr_rxWire (b : Byte) : (putTdr b s).rxWire = s.rxWire := rfl
@[simp] theorem putTdr_txLine (b : Byte) : (putTdr b s).txLine = s.txLine := rfl
@[simp] theorem putTdr_faultMark (b : Byte) : (putTdr b s).faultMark = s.faultMark := rfl
@[simp] theorem putTdr_refusedMark (b : Byte) : (putTdr b s).refusedMark = s.refusedMark := rfl
@[simp] theorem putTdr_hostWords (b : Byte) : (putTdr b s).hostWords = s.hostWords := rfl
@[simp] theorem putTdr_results (b : Byte) : (putTdr b s).results = s.results := rfl
@[simp] theorem putTdr_sched (b : Byte) : (putTdr b s).sched = s.sched := rfl
@[simp] theorem putTdr_freeTurns (b : Byte) : (putTdr b s).freeTurns = s.freeTurns := rfl

/-! ## `wrDmaIfcr` -/

@[simp] theorem wrDmaIfcr_params (w : Word) : (wrDmaIfcr w s).params = s.params := rfl
@[simp] theorem wrDmaIfcr_rx (w : Word) : (wrDmaIfcr w s).rx = s.rx.clearFlag s.params .rx w := rfl
@[simp] theorem wrDmaIfcr_tx (w : Word) : (wrDmaIfcr w s).tx = s.tx.clearFlag s.params .tx w := rfl
@[simp] theorem wrDmaIfcr_sl (w : Word) : (wrDmaIfcr w s).sl = s.sl := rfl
@[simp] theorem wrDmaIfcr_mem (w : Word) : (wrDmaIfcr w s).mem = s.mem := rfl
@[simp] theorem wrDmaIfcr_rxComplete (w : Word) : (wrDmaIfcr w s).rxComplete = s.rxComplete := rfl
@[simp] theorem wrDmaIfcr_txDone (w : Word) : (wrDmaIfcr w s).txDone = s.txDone := rfl
@[simp] theorem wrDmaIfcr_ienDma (w : Word) : (wrDmaIfcr w s).ienDma = s.ienDma := rfl
@[simp] theorem wrDmaIfcr_ienErr (w : Word) : (wrDmaIfcr w s).ienErr = s.ienErr := rfl
@[simp] theorem wrDmaIfcr_hDma (w : Word) : (wrDmaIfcr w s).hDma = s.hDma := rfl
@[simp] theorem wrDmaIfcr_hErr (w : Word) : (wrDmaIfcr w s).hErr = s.hErr := rfl
@[simp] theorem wrDmaIfcr_main (w : Word) : (wrDmaIfcr w s).main = s.main := rfl
@[simp] theorem wrDmaIfcr_rxWire (w : Word) : (wrDmaIfcr w s).rxWire = s.rxWire := rfl
@[simp] theorem wrDmaIfcr_txLine (w : Word) : (wrDmaIfcr w s).txLine = s.txLine := rfl
@[simp] theorem wrDmaIfcr_faultMark (w : Word) : (wrDmaIfcr w s).faultMark = s.faultMark := rfl
@[simp] theorem wrDmaIfcr_refusedMark (w : Word) : (wrDmaIfcr w s).refusedMark = s.refusedMark :=
  rfl
@[simp] theorem wrDmaIfcr_hostWords (w : Word) : (wrDmaIfcr w s).hostWords = s.hostWords := rfl
@[simp] theorem wrDmaIfcr_results (w : Word) : (wrDmaIfcr w s).results = s.results := rfl
@[simp] theorem wrDmaIfcr_sched (w : Word) : (wrDmaIfcr w s).sched = s.sched := rfl
@[simp] theorem wrDmaIfcr_freeTurns (w : Word) : (wrDmaIfcr w s).freeTurns = s.freeTurns := rfl

/-! ## `wrSlIcr` -/

@[simp] theorem wrSlIcr_params (w : Word) : (wrSlIcr w s).params = s.params := rfl
@[simp] theorem wrSlIcr_rx (w : Word) : (wrSlIcr w s).rx = s.rx := rfl
@[simp] theorem wrSlIcr_tx (w : Word) : (wrSlIcr w s).tx = s.tx := rfl
@[simp] theorem wrSlIcr_sl (w : Word) : (wrSlIcr w s).sl = s.sl.clearFlags w := rfl
@[simp] theorem wrSlIcr_mem (w : Word) : (wrSlIcr w s).mem = s.mem := rfl
@[simp] theorem wrSlIcr_rxComplete (w : Word) : (wrSlIcr w s).rxComplete = s.rxComplete := rfl
@[simp] theorem wrSlIcr_txDone (w : Word) : (wrSlIcr w s).txDone = s.txDone := rfl
@[simp] theorem wrSlIcr_ienDma (w : Word) : (wrSlIcr w s).ienDma = s.ienDma := rfl
@[simp] theorem wrSlIcr_ienErr (w : Word) : (wrSlIcr w s).ienErr = s.ienErr := rfl
@[simp] theorem wrSlIcr_hDma (w : Word) : (wrSlIcr w s).hDma = s.hDma := rfl
@[simp] theorem wrSlIcr_hErr (w : Word) : (wrSlIcr w s).hErr = s.hErr := rfl
@[simp] theorem wrSlIcr_main (w : Word) : (wrSlIcr w s).main = s.main := rfl
@[simp] theorem wrSlIcr_rxWire (w : Word) : (wrSlIcr w s).rxWire = s.rxWire := rfl
@[simp] theorem wrSlIcr_txLine (w : Word) : (wrSlIcr w s).txLine = s.txLine := rfl
@[simp] theorem wrSlIcr_faultMark (w : Word) : (wrSlIcr w s).faultMark = s.faultMark := rfl
@[simp] theorem wrSlIcr_refusedMark (w : Word) : (wrSlIcr w s).refusedMark = s.refusedMark := rfl
@[simp] theorem wrSlIcr_hostWords (w : Word) : (wrSlIcr w s).hostWords = s.hostWords := rfl
@[simp] theorem wrSlIcr_results (w : Word) : (wrSlIcr w s).results = s.results := rfl
@[simp] theorem wrSlIcr_sched (w : Word) : (wrSlIcr w s).sched = s.sched := rfl
@[simp] theorem wrSlIcr_freeTurns (w : Word) : (wrSlIcr w s).freeTurns = s.freeTurns := rfl

/-! ## `enter` -/

@[simp] theorem enter_params (h : HandlerId) : (enter h s).params = s.params :=
  by cases h <;> rfl
@[simp] theorem enter_rx (h : HandlerId) : (enter h s).rx = s.rx :=
  by cases h <;> rfl
@[simp] theorem enter_tx (h : HandlerId) : (enter h s).tx = s.tx :=
  by cases h <;> rfl
@[simp] theorem enter_sl (h : HandlerId) : (enter h s).sl = s.sl :=
  by cases h <;> rfl
@[simp] theorem enter_mem (h : HandlerId) : (enter h s).mem = s.mem :=
  by cases h <;> rfl
@[simp] theorem enter_rxComplete (h : HandlerId) : (enter h s).rxComplete = s.rxComplete :=
  by cases h <;> rfl
@[simp] theorem enter_txDone (h : HandlerId) : (enter h s).txDone = s.txDone :=
  by cases h <;> rfl
@[simp] theorem enter_ienDma (h : HandlerId) : (enter h s).ienDma = s.ienDma :=
  by cases h <;> rfl
@[simp] theorem enter_ienErr (h : HandlerId) : (enter h s).ienErr = s.ienErr :=
  by cases h <;> rfl
@[simp] theorem enter_main (h : HandlerId) : (enter h s).main = s.main :=
  by cases h <;> rfl
@[simp] theorem enter_rxWire (h : HandlerId) : (enter h s).rxWire = s.rxWire :=
  by cases h <;> rfl
@[simp] theorem enter_txLine (h : HandlerId) : (enter h s).txLine = s.txLine :=
  by cases h <;> rfl
@[simp] theorem enter_faultMark (h : HandlerId) : (enter h s).faultMark = s.faultMark :=
  by cases h <;> rfl
@[simp] theorem enter_refusedMark (h : HandlerId) : (enter h s).refusedMark = s.refusedMark :=
  by cases h <;> rfl
@[simp] theorem enter_hostWords (h : HandlerId) : (enter h s).hostWords = s.hostWords :=
  by cases h <;> rfl
@[simp] theorem enter_results (h : HandlerId) : (enter h s).results = s.results :=
  by cases h <;> rfl
@[simp] theorem enter_sched (h : HandlerId) : (enter h s).sched = s.sched :=
  by cases h <;> rfl
@[simp] theorem enter_freeTurns (h : HandlerId) : (enter h s).freeTurns = s.freeTurns :=
  by cases h <;> rfl

/-! ## `returnFrom` -/

@[simp] theorem returnFrom_params (h : HandlerId) : (returnFrom h s).params = s.params :=
  by cases h <;> rfl
@[simp] theorem returnFrom_rx (h : HandlerId) : (returnFrom h s).rx = s.rx :=
  by cases h <;> rfl
@[simp] theorem returnFrom_tx (h : HandlerId) : (returnFrom h s).tx = s.tx :=
  by cases h <;> rfl
@[simp] theorem returnFrom_sl (h : HandlerId) : (returnFrom h s).sl = s.sl :=
  by cases h <;> rfl
@[simp] theorem returnFrom_mem (h : HandlerId) : (returnFrom h s).mem = s.mem :=
  by cases h <;> rfl
@[simp] theorem returnFrom_rxComplete (h : HandlerId) : (returnFrom h s).rxComplete = s.rxComplete :=
  by cases h <;> rfl
@[simp] theorem returnFrom_txDone (h : HandlerId) : (returnFrom h s).txDone = s.txDone :=
  by cases h <;> rfl
@[simp] theorem returnFrom_ienDma (h : HandlerId) : (returnFrom h s).ienDma = s.ienDma :=
  by cases h <;> rfl
@[simp] theorem returnFrom_ienErr (h : HandlerId) : (returnFrom h s).ienErr = s.ienErr :=
  by cases h <;> rfl
@[simp] theorem returnFrom_main (h : HandlerId) : (returnFrom h s).main = s.main :=
  by cases h <;> rfl
@[simp] theorem returnFrom_rxWire (h : HandlerId) : (returnFrom h s).rxWire = s.rxWire :=
  by cases h <;> rfl
@[simp] theorem returnFrom_txLine (h : HandlerId) : (returnFrom h s).txLine = s.txLine :=
  by cases h <;> rfl
@[simp] theorem returnFrom_faultMark (h : HandlerId) : (returnFrom h s).faultMark = s.faultMark :=
  by cases h <;> rfl
@[simp] theorem returnFrom_refusedMark (h : HandlerId) : (returnFrom h s).refusedMark = s.refusedMark :=
  by cases h <;> rfl
@[simp] theorem returnFrom_hostWords (h : HandlerId) : (returnFrom h s).hostWords = s.hostWords :=
  by cases h <;> rfl
@[simp] theorem returnFrom_results (h : HandlerId) : (returnFrom h s).results = s.results :=
  by cases h <;> rfl
@[simp] theorem returnFrom_sched (h : HandlerId) : (returnFrom h s).sched = s.sched :=
  by cases h <;> rfl
@[simp] theorem returnFrom_freeTurns (h : HandlerId) : (returnFrom h s).freeTurns = s.freeTurns :=
  by cases h <;> rfl

/-! ## `afterTurn` -/

@[simp] theorem afterTurn_params : (s.afterTurn).params = s.params :=
  by unfold State.afterTurn; split <;> rfl
@[simp] theorem afterTurn_rx : (s.afterTurn).rx = s.rx :=
  by unfold State.afterTurn; split <;> rfl
@[simp] theorem afterTurn_tx : (s.afterTurn).tx = s.tx :=
  by unfold State.afterTurn; split <;> rfl
@[simp] theorem afterTurn_sl : (s.afterTurn).sl = s.sl :=
  by unfold State.afterTurn; split <;> rfl
@[simp] theorem afterTurn_mem : (s.afterTurn).mem = s.mem :=
  by unfold State.afterTurn; split <;> rfl
@[simp] theorem afterTurn_rxComplete : (s.afterTurn).rxComplete = s.rxComplete :=
  by unfold State.afterTurn; split <;> rfl
@[simp] theorem afterTurn_txDone : (s.afterTurn).txDone = s.txDone :=
  by unfold State.afterTurn; split <;> rfl
@[simp] theorem afterTurn_ienDma : (s.afterTurn).ienDma = s.ienDma :=
  by unfold State.afterTurn; split <;> rfl
@[simp] theorem afterTurn_ienErr : (s.afterTurn).ienErr = s.ienErr :=
  by unfold State.afterTurn; split <;> rfl
@[simp] theorem afterTurn_hDma : (s.afterTurn).hDma = s.hDma :=
  by unfold State.afterTurn; split <;> rfl
@[simp] theorem afterTurn_hErr : (s.afterTurn).hErr = s.hErr :=
  by unfold State.afterTurn; split <;> rfl
@[simp] theorem afterTurn_main : (s.afterTurn).main = s.main :=
  by unfold State.afterTurn; split <;> rfl
@[simp] theorem afterTurn_rxWire : (s.afterTurn).rxWire = s.rxWire :=
  by unfold State.afterTurn; split <;> rfl
@[simp] theorem afterTurn_txLine : (s.afterTurn).txLine = s.txLine :=
  by unfold State.afterTurn; split <;> rfl
@[simp] theorem afterTurn_faultMark : (s.afterTurn).faultMark = s.faultMark :=
  by unfold State.afterTurn; split <;> rfl
@[simp] theorem afterTurn_refusedMark : (s.afterTurn).refusedMark = s.refusedMark :=
  by unfold State.afterTurn; split <;> rfl
@[simp] theorem afterTurn_hostWords : (s.afterTurn).hostWords = s.hostWords :=
  by unfold State.afterTurn; split <;> rfl
@[simp] theorem afterTurn_results : (s.afterTurn).results = s.results :=
  by unfold State.afterTurn; split <;> rfl

/-! ## Channels by role -/

@[simp] theorem setChan_chan_same (c : Role) (x : Chan) : (s.setChan c x).chan c = x := by
  cases c <;> rfl

theorem setChan_chan_other (c d : Role) (x : Chan) (h : d ≠ c) :
    (s.setChan c x).chan d = s.chan d := by
  cases c <;> cases d <;> first | rfl | exact absurd rfl h

@[simp] theorem chan_rx : s.chan .rx = s.rx := rfl
@[simp] theorem chan_tx : s.chan .tx = s.tx := rfl
@[simp] theorem setChan_rx (x : Chan) : s.setChan .rx x = { s with rx := x } := rfl
@[simp] theorem setChan_tx (x : Chan) : s.setChan .tx x = { s with tx := x } := rfl

/-! ## Where the handlers and `MAIN` are -/

@[simp] theorem isActive_inactive {α : Type} : (Handler.inactive : Handler α).isActive = false := rfl
@[simp] theorem isActive_active {α : Type} (pos : α) (t : Temps) :
    (Handler.active pos t).isActive = true := rfl
@[simp] theorem isRunning_idle : MainCtx.idle.isRunning = false := rfl
@[simp] theorem isRunning_running (w : OpWord) (pos : MainPos) (t : Temps) :
    (MainCtx.running w pos t).isRunning = true := rfl

@[simp] theorem enter_dma_hDma : (enter .dma s).hDma = .active .d1 .fresh := rfl
@[simp] theorem enter_dma_hErr : (enter .dma s).hErr = s.hErr := rfl
@[simp] theorem enter_err_hErr : (enter .err s).hErr = .active .e1 .fresh := rfl
@[simp] theorem enter_err_hDma : (enter .err s).hDma = s.hDma := rfl
@[simp] theorem returnFrom_dma_hDma : (returnFrom .dma s).hDma = .inactive := rfl
@[simp] theorem returnFrom_dma_hErr : (returnFrom .dma s).hErr = s.hErr := rfl
@[simp] theorem returnFrom_err_hErr : (returnFrom .err s).hErr = .inactive := rfl
@[simp] theorem returnFrom_err_hDma : (returnFrom .err s).hDma = s.hDma := rfl

@[simp] theorem mainAt_mainPos (i : Instr) (pos : MainPos) (t : Temps) :
    (s.mainAt i pos t).mainPos = pos := by
  unfold State.mainAt State.mainPos; cases s.main <;> rfl

@[simp] theorem mainAt_mainTemps (i : Instr) (pos : MainPos) (t : Temps) :
    (s.mainAt i pos t).mainTemps = t := by
  unfold State.mainAt State.mainTemps; cases s.main <;> rfl

@[simp] theorem endMain_mainPos (r : Result) : (s.endMain r).mainPos = .first := rfl
@[simp] theorem endMain_mainTemps (r : Result) : (s.endMain r).mainTemps = .fresh := rfl

end Sys2Proof.Machine
end

