-- ==== Sys2Proof/Laws/Memory.lean ====
section
/-!
SUPPORT. The byte memory: a read after a write, and the canonical form, which every operation keeps.
-/

namespace Sys2Proof.Machine

/-- A read after a write at the same address gives the byte written. -/
@[simp] theorem Memory.get_set_same (m : List Host.Cell) (k : Nat) (v : Byte) :
    Memory.get (Memory.set m k v) k = some v := by
  induction m with
  | nil => simp [Memory.set, Memory.get]
  | cons x m ih =>
    obtain ⟨a, b⟩ := x
    simp only [Memory.set]
    split
    · simp [Memory.get]
    · split
      · simp [Memory.get]
      · next h => simp [Memory.get, Ne.symm h, ih]

/-- A write leaves every other address as it was. -/
theorem Memory.get_set_other (m : List Host.Cell) (k j : Nat) (v : Byte) (h : j ≠ k) :
    Memory.get (Memory.set m k v) j = Memory.get m j := by
  induction m with
  | nil => simp [Memory.set, Memory.get, Ne.symm h]
  | cons x m ih =>
    obtain ⟨a, b⟩ := x
    simp only [Memory.set]
    split
    · simp [Memory.get, Ne.symm h]
    · split
      · next e => subst e; simp [Memory.get, Ne.symm h]
      · simp [Memory.get, ih]

/-- The addresses listed after a write: those listed before, and the one written. -/
theorem Memory.mem_set (m : List Host.Cell) (k : Nat) (v : Byte) (x : Host.Cell)
    (h : x ∈ Memory.set m k v) : x = (k, v) ∨ x ∈ m := by
  induction m with
  | nil => simpa [Memory.set] using h
  | cons y m ih =>
    obtain ⟨a, b⟩ := y
    simp only [Memory.set] at h
    split at h
    · simpa using h
    · split at h
      · rcases List.mem_cons.1 h with h | h
        · exact .inl h
        · exact .inr (List.mem_cons_of_mem _ h)
      · rcases List.mem_cons.1 h with h | h
        · exact .inr (h ▸ List.mem_cons_self)
        · exact (ih h).imp id (List.mem_cons_of_mem _)

/-- A write keeps the canonical form. -/
theorem Memory.set_wf (m : List Host.Cell) (k : Nat) (v : Byte) (h : Memory.wf m) :
    Memory.wf (Memory.set m k v) := by
  induction m with
  | nil => simp [Memory.set, Memory.wf]
  | cons x m ih =>
    obtain ⟨a, b⟩ := x
    obtain ⟨hx, hm⟩ := List.pairwise_cons.1 h
    simp only [Memory.set]
    split
    · next lt =>
      refine List.pairwise_cons.2 ⟨fun y hy => ?_, h⟩
      rcases List.mem_cons.1 hy with rfl | hy
      · exact lt
      · exact lt.trans (hx y hy)
    · split
      · next e => exact List.pairwise_cons.2 ⟨fun y hy => e ▸ hx y hy, hm⟩
      · next nlt ne =>
        refine List.pairwise_cons.2 ⟨fun y hy => ?_, ih hm⟩
        rcases Memory.mem_set m k v y hy with rfl | hy
        · exact lt_of_le_of_ne (not_lt.1 nlt) (Ne.symm ne)
        · exact hx y hy

/-- The memory after reset has its canonical form. -/
theorem Memory.reset_wf : Memory.wf State.reset.mem := List.Pairwise.nil

/-- A read of a written byte of RAM (R75). -/
theorem memRead8_of_byte {a : Word} {s : State} {b : Byte} (hr : s.params.inRam a)
    (hb : s.byteAt a = some b) : memRead8 a s = .next b := by
  unfold memRead8
  rw [if_pos hr, hb]

/-- A read of an unwritten byte of RAM (R77). -/
theorem memRead8_of_unwritten {a : Word} {s : State} (hr : s.params.inRam a)
    (hb : s.byteAt a = none) : memRead8 a s = .fault (.unwrittenRead a) := by
  unfold memRead8
  rw [if_pos hr, hb]

/-- A write of a byte of RAM (R76). -/
theorem memWrite8_of_inRam {a : Word} {s : State} (v : Byte) (hr : s.params.inRam a) :
    memWrite8 a v s = .next { s with mem := Memory.set s.mem a.toNat v } := by
  unfold memWrite8
  rw [if_pos hr]

/-- The byte a memory write stores reads back, whatever the rest of the state. -/
theorem byteAt_set_same (s : State) (a : Word) (v : Byte) :
    ({ s with mem := Memory.set s.mem a.toNat v } : State).byteAt a = some v :=
  Memory.get_set_same _ _ _

/-- A memory write leaves the byte at every other address. -/
theorem byteAt_set_other (s : State) (a x : Word) (v : Byte) (h : x ≠ a) :
    ({ s with mem := Memory.set s.mem a.toNat v } : State).byteAt x = s.byteAt x :=
  Memory.get_set_other _ _ _ _ fun e => h (BitVec.eq_of_toNat_eq e)

/-- Everything a memory read can do (R75, R77). -/
theorem memRead8_next {a : Word} {s : State} {b : Byte} (h : memRead8 a s = .next b) :
    s.params.inRam a ∧ s.byteAt a = some b := by
  unfold memRead8 at h
  split at h
  · next hr =>
    split at h
    · next e => cases h; exact ⟨hr, e⟩
    · cases h
  · cases h

/-- Everything a memory write can do (R76). -/
theorem memWrite8_next {a : Word} {v : Byte} {s s' : State} (h : memWrite8 a v s = .next s') :
    s.params.inRam a ∧ s' = { s with mem := Memory.set s.mem a.toNat v } := by
  unfold memWrite8 at h
  split at h
  · next hr => cases h; exact ⟨hr, rfl⟩
  · cases h

end Sys2Proof.Machine
end

