-- ==== Sys2Proof/Laws/Ops.lean ====
section
/-!
SUPPORT. What each shared operation can do, said once: if it answers a next state, then this one.
-/

namespace Sys2Proof.Machine

@[simp] theorem andThen_of_next {α β : Type} (a : α) (f : α → Out β) :
    andThen (.next a) f = f a := rfl
@[simp] theorem andThen_of_fault {α β : Type} (r : Fault) (f : α → Out β) :
    andThen (.fault r : Out α) f = .fault r := rfl
@[simp] theorem andThen_of_refused {α β : Type} (r : Refusal) (f : α → Out β) :
    andThen (.refused r : Out α) f = .refused r := rfl

/-- A sequence answers a next state only through a next state of its first part. -/
theorem andThen_next {α β : Type} {o : Out α} {f : α → Out β} {b : β}
    (h : andThen o f = .next b) : ∃ a, o = .next a ∧ f a = .next b := by
  cases o with
  | next a => exact ⟨a, rfl, h⟩
  | fault r => cases h
  | refused r => cases h

/-- The end of a BUS write. -/
theorem endWrite_next {o : Out State} {t : State} (h : endWrite o = .next t) :
    ∃ s', o = .next s' ∧ t = s'.endMain .nothing := by
  obtain ⟨s', h1, h2⟩ := andThen_next h
  cases h2
  exact ⟨s', h1, rfl⟩

/-- Everything a write of `CCR[c]` can do (R135): the word has no reserved bit, it changes nothing
but `EN` and `TCIE` of an enabled channel, it enables only a channel that is legal with a count of 0
or 1, and it stores the word. -/
theorem wrCcr_next {c : Role} {w : Word} {s s' : State} (h : wrCcr c w s = .next s') :
    w &&& ~~~ccrMask = 0#32 ∧
    ((s.chan c).en = true → w &&& ~~~ccrLiveMask = rdCcr c s &&& ~~~ccrLiveMask) ∧
    ((s.chan c).en = false → w.getLsbD 0 = true →
      legalConfig s.params c (s.chan c) w = true ∧ (s.chan c).ndt.toNat ≤ 1) ∧
    s' = s.setChan c { s.chan c with ccr := w } := by
  unfold wrCcr at h
  split at h
  · cases h
  · next hr =>
    split at h
    · cases h
    · next hm =>
      split at h
      · cases h
      · next hl =>
        split at h
        · cases h
        · next hc =>
          cases h
          refine ⟨not_not.1 hr, fun he => ?_, fun he hw => ⟨?_, ?_⟩, rfl⟩
          · by_contra hne; exact hm ⟨he, hne⟩
          · by_contra hne
            exact hl ⟨he, hw, by simpa using hne⟩
          · by_contra hne; exact hc ⟨he, hw, by omega⟩

/-- When a write of `CCR[c]` completes (R135). -/
theorem wrCcr_completes {c : Role} {w : Word} {s : State} (hr : w &&& ~~~ccrMask = 0#32)
    (hm : (s.chan c).en = true → w &&& ~~~ccrLiveMask = rdCcr c s &&& ~~~ccrLiveMask)
    (hl : (s.chan c).en = false → w.getLsbD 0 = true →
      legalConfig s.params c (s.chan c) w = true ∧ (s.chan c).ndt.toNat ≤ 1) :
    wrCcr c w s = .next (s.setChan c { s.chan c with ccr := w }) := by
  unfold wrCcr
  rw [if_neg (not_not.2 hr), if_neg fun h => h.2 (hm h.1), if_neg, if_neg]
  · rintro ⟨h1, h2, h3⟩
    have := (hl h1 h2).2
    omega
  · rintro ⟨h1, h2, h3⟩
    rw [(hl h1 h2).1] at h3
    cases h3

/-- A write that needs a disabled channel completes on one (R145). -/
theorem whileDisabled_of_disabled {c : Role} {r : ChanReg} {x : Chan} {s : State}
    (h : (s.chan c).en = false) : whileDisabled c r x s = .next (s.setChan c x) := by
  simp [whileDisabled, h]

/-- Everything a write that needs a disabled channel can do (R145). -/
theorem whileDisabled_next {c : Role} {r : ChanReg} {x : Chan} {s s' : State}
    (h : whileDisabled c r x s = .next s') : (s.chan c).en = false ∧ s' = s.setChan c x := by
  unfold whileDisabled at h
  split at h
  · cases h
  · next he => cases h; exact ⟨by simpa using he, rfl⟩

/-- Everything a write of `CNDTR[c]` can do (R139). -/
theorem wrCndtr_next {c : Role} {w : Word} {s s' : State} (h : wrCndtr c w s = .next s') :
    w.extractLsb' 16 16 = 0#16 ∧ (s.chan c).en = false ∧
    s' = s.setChan c { s.chan c with ndt := w.extractLsb' 0 16 } := by
  unfold wrCndtr at h
  split at h
  · cases h
  · next hr => exact ⟨not_not.1 hr, whileDisabled_next h⟩

/-- Everything a write of `SL_CR1` can do (R212). -/
theorem wrSlCr1_next {w : Word} {s s' : State} (h : wrSlCr1 w s = .next s') :
    w &&& ~~~cr1Mask = 0#32 ∧ s' = { s with sl := { s.sl with cr1 := w } } := by
  unfold wrSlCr1 at h
  split at h
  · cases h
  · next hr => cases h; exact ⟨not_not.1 hr, rfl⟩

/-- Everything a write of `SL_CR3` can do (R214). -/
theorem wrSlCr3_next {w : Word} {s s' : State} (h : wrSlCr3 w s = .next s') :
    w &&& ~~~cr3Mask = 0#32 ∧ s' = { s with sl := { s.sl with cr3 := w } } := by
  unfold wrSlCr3 at h
  split at h
  · cases h
  · next hr => cases h; exact ⟨not_not.1 hr, rfl⟩

/-- Everything a write of `SL_BRR` can do (R216). -/
theorem wrSlBrr_next {w : Word} {s s' : State} (h : wrSlBrr w s = .next s') :
    w.extractLsb' 16 16 = 0#16 ∧
    s' = { s with sl := { s.sl with div := w.extractLsb' 0 16 } } := by
  unfold wrSlBrr at h
  split at h
  · cases h
  · next hr => cases h; exact ⟨not_not.1 hr, rfl⟩

/-- Everything a 32-bit write of `SL_TDR` can do (R224). -/
theorem wrSlTdr32_next {w : Word} {s s' : State} (h : wrSlTdr32 w s = .next s') :
    highZero w = true ∧ s' = putTdr (lowByte w) s := by
  unfold wrSlTdr32 at h
  split at h
  · cases h
  · next hr => cases h; exact ⟨by simpa using hr, rfl⟩

/-- Everything a transfer can do (R178). -/
theorem xfer_next {c : Role} {s s' : State} (h : xfer c s = .next s') :
    (c = .rx ∧ s.params.inRam s.rx.cmar ∧
      s' = { s with
        rx := s.rx.complete
        sl := { s.sl with rxne := false }
        mem := Memory.set s.mem s.rx.cmar.toNat s.sl.rdr }) ∨
    (c = .tx ∧ s.params.inRam s.tx.cmar ∧ ∃ b, s.byteAt s.tx.cmar = some b ∧
      s' = { s with
        tx := s.tx.complete
        sl := { s.sl with tdr := b, txe := false } }) := by
  cases c with
  | rx =>
    obtain ⟨s1, h1, h2⟩ := andThen_next (h : andThen _ _ = _)
    obtain ⟨hr, rfl⟩ := memWrite8_next h1
    cases h2
    exact .inl ⟨rfl, hr, rfl⟩
  | tx =>
    obtain ⟨b, h1, h2⟩ := andThen_next (h : andThen _ _ = _)
    obtain ⟨hr, hb⟩ := memRead8_next h1
    cases h2
    exact .inr ⟨rfl, hr, b, hb, rfl⟩

/-- Everything one micro-step of a command of `MAIN` can do. -/
theorem mainStep_next {κ : Type} {i : Instr} {wrap : κ → MainPos} {result : Temps → Result}
    {run : Temps → State → Micro κ} {s t : State}
    (h : mainStep i wrap result run s = .next t) :
    ∃ k x s', run s.mainTemps s = .next (k, x, s') ∧
      t = (match k with
        | some k => s'.mainAt i (wrap k) x
        | none => s'.endMain (result x)) := by
  obtain ⟨⟨k, x, s'⟩, h1, h2⟩ := andThen_next (h : andThen _ _ = _)
  refine ⟨k, x, s', h1, ?_⟩
  cases k <;> cases h2 <;> rfl

/-- Everything one micro-step of a sequence inside `H_DMA` can do. -/
theorem dmaSeq_next {κ : Type} {wrap : κ → DmaPos} {done : DmaPos} {m : Micro κ} {t : State}
    (h : dmaSeq wrap done m = .next t) :
    ∃ k x s', m = .next (k, x, s') ∧
      t = (match k with
        | some k => s'.dmaAt (wrap k) x
        | none => s'.dmaAt done x) := by
  obtain ⟨⟨k, x, s'⟩, h1, h2⟩ := andThen_next (h : andThen _ _ = _)
  refine ⟨k, x, s', h1, ?_⟩
  cases k <;> cases h2 <;> rfl

/-- A step of a machine on which no mark is set is one turn, with a fault or a refusal recorded
(R321, R322). -/
theorem step_of_unmarked {s : State} (hf : s.faultMark = none) (hr : s.refusedMark = none) :
    step s = .next (record s.afterTurn (agentStep s.nextTurn s.afterTurn)) := by
  simp [step, machineStep, hf, hr]

/-- A step that answers a next state starts with no mark set. -/
theorem step_next {s s' : State} (h : step s = .next s') :
    s.faultMark = none ∧ s.refusedMark = none ∧
    s' = record s.afterTurn (agentStep s.nextTurn s.afterTurn) := by
  unfold step machineStep at h
  split at h
  · cases h
  · cases h
  · next hf hr => cases h; exact ⟨hf, hr, rfl⟩

end Sys2Proof.Machine
end

