-- ==== Sys2Proof/Laws/Encoding.lean ====
section
/-!
SUPPORT. The three groups of an operation word (R100), and the two halves of a byte argument.
-/

namespace Sys2Proof

@[simp] theorem ctlOf_opWord (c : BitVec 8) (a d : Word) : ctlOf (opWord c a d) = c := by
  ext i hi
  simp only [ctlOf, opWord, BitVec.getElem_extractLsb', BitVec.getLsbD_append]
  have h1 : ¬ (64 + i < 32) := by omega
  have h2 : ¬ (64 + i - 32 < 32) := by omega
  have h3 : 64 + i - 32 - 32 = i := by omega
  simp [h1, h2, h3, BitVec.getLsbD_eq_getElem hi]

@[simp] theorem addrOf_opWord (c : BitVec 8) (a d : Word) : addrOf (opWord c a d) = a := by
  ext i hi
  simp only [addrOf, opWord, BitVec.getElem_extractLsb', BitVec.getLsbD_append]
  have h1 : ¬ (32 + i < 32) := by omega
  have h2 : 32 + i - 32 = i := by omega
  simp [h1, h2, hi]

@[simp] theorem dataOf_opWord (c : BitVec 8) (a d : Word) : dataOf (opWord c a d) = d := by
  ext i hi
  simp only [dataOf, opWord, BitVec.getElem_extractLsb', BitVec.getLsbD_append]
  simp [hi]

@[simp] theorem lowByte_byteData (b : Byte) : lowByte (byteData b) = b := by
  ext i hi
  simp [lowByte, byteData, BitVec.getLsbD_eq_getElem hi, show i < 32 by omega]

@[simp] theorem highZero_byteData (b : Byte) : highZero (byteData b) = true := by
  simp only [highZero, beq_iff_eq]
  ext i hi
  simp [byteData, BitVec.getLsbD_of_ge]

end Sys2Proof
end

