-- ==== Sys2Proof/Laws/PerInstr.lean ====
section
/-!
SUPPORT. Statements for all instructions, one lemma per constructor.  `EncodeClass`: the `CTL` group
the encoder writes is the one of the tables of spec/30_encoding.md R107 and R108.
-/

namespace Sys2Proof

/-- The `CTL` column of R107 and R108. -/
def Instr.ctl : Instr → BitVec 8
  | .rdDmaIsr => 0x02#8
  | .wrDmaIsr _ => 0x82#8
  | .rdDmaIfcr => 0x02#8
  | .wrDmaIfcr _ => 0x82#8
  | .rdCcrRx => 0x02#8
  | .wrCcrRx _ => 0x82#8
  | .rdCcrTx => 0x02#8
  | .wrCcrTx _ => 0x82#8
  | .rdCndtrRx => 0x02#8
  | .wrCndtrRx _ => 0x82#8
  | .rdCndtrTx => 0x02#8
  | .wrCndtrTx _ => 0x82#8
  | .rdCparRx => 0x02#8
  | .wrCparRx _ => 0x82#8
  | .rdCparTx => 0x02#8
  | .wrCparTx _ => 0x82#8
  | .rdCmarRx => 0x02#8
  | .wrCmarRx _ => 0x82#8
  | .rdCmarTx => 0x02#8
  | .wrCmarTx _ => 0x82#8
  | .rdSlCr1 => 0x02#8
  | .wrSlCr1 _ => 0x82#8
  | .rdSlCr3 => 0x02#8
  | .wrSlCr3 _ => 0x82#8
  | .rdSlBrr => 0x02#8
  | .wrSlBrr _ => 0x82#8
  | .rdSlIsr => 0x02#8
  | .wrSlIsr _ => 0x82#8
  | .rdSlIcr => 0x02#8
  | .wrSlIcr _ => 0x82#8
  | .rdSlRdr32 => 0x02#8
  | .rdSlRdr8 => 0x00#8
  | .wrSlRdr32 _ => 0x82#8
  | .wrSlRdr8 _ => 0x80#8
  | .rdSlTdr32 => 0x02#8
  | .rdSlTdr8 => 0x00#8
  | .wrSlTdr32 _ => 0x82#8
  | .wrSlTdr8 _ => 0x80#8
  | .rd8Mem _ => 0x00#8
  | .wr8Mem _ _ => 0x80#8
  | .cfgLine _ => 0x41#8
  | .init _ => 0x42#8
  | .irqenDma => 0x43#8
  | .irqenErr => 0x44#8
  | .armRx => 0x48#8
  | .armTx _ => 0x49#8
  | .disarmRx => 0x4A#8
  | .disarmTx => 0x4B#8
  | .clrtcRx => 0x4C#8
  | .clrtcTx => 0x4D#8
  | .davail => 0x50#8
  | .read => 0x51#8
  | .stx _ => 0x52#8
  | .mloop => 0x53#8

namespace Laws.EncodeClass

/-- The `CTL` group of the encoding is the table's, for every placing of the windows. -/
def Statement (i : Instr) : Prop := ∀ p : Params, ctlOf (encode p i) = i.ctl

theorem rdDmaIsr : Statement .rdDmaIsr := fun _ => ctlOf_opWord _ _ _
theorem wrDmaIsr (w : Word) : Statement (.wrDmaIsr w) := fun _ => ctlOf_opWord _ _ _
theorem rdDmaIfcr : Statement .rdDmaIfcr := fun _ => ctlOf_opWord _ _ _
theorem wrDmaIfcr (w : Word) : Statement (.wrDmaIfcr w) := fun _ => ctlOf_opWord _ _ _
theorem rdCcrRx : Statement .rdCcrRx := fun _ => ctlOf_opWord _ _ _
theorem wrCcrRx (w : Word) : Statement (.wrCcrRx w) := fun _ => ctlOf_opWord _ _ _
theorem rdCcrTx : Statement .rdCcrTx := fun _ => ctlOf_opWord _ _ _
theorem wrCcrTx (w : Word) : Statement (.wrCcrTx w) := fun _ => ctlOf_opWord _ _ _
theorem rdCndtrRx : Statement .rdCndtrRx := fun _ => ctlOf_opWord _ _ _
theorem wrCndtrRx (w : Word) : Statement (.wrCndtrRx w) := fun _ => ctlOf_opWord _ _ _
theorem rdCndtrTx : Statement .rdCndtrTx := fun _ => ctlOf_opWord _ _ _
theorem wrCndtrTx (w : Word) : Statement (.wrCndtrTx w) := fun _ => ctlOf_opWord _ _ _
theorem rdCparRx : Statement .rdCparRx := fun _ => ctlOf_opWord _ _ _
theorem wrCparRx (w : Word) : Statement (.wrCparRx w) := fun _ => ctlOf_opWord _ _ _
theorem rdCparTx : Statement .rdCparTx := fun _ => ctlOf_opWord _ _ _
theorem wrCparTx (w : Word) : Statement (.wrCparTx w) := fun _ => ctlOf_opWord _ _ _
theorem rdCmarRx : Statement .rdCmarRx := fun _ => ctlOf_opWord _ _ _
theorem wrCmarRx (w : Word) : Statement (.wrCmarRx w) := fun _ => ctlOf_opWord _ _ _
theorem rdCmarTx : Statement .rdCmarTx := fun _ => ctlOf_opWord _ _ _
theorem wrCmarTx (w : Word) : Statement (.wrCmarTx w) := fun _ => ctlOf_opWord _ _ _
theorem rdSlCr1 : Statement .rdSlCr1 := fun _ => ctlOf_opWord _ _ _
theorem wrSlCr1 (w : Word) : Statement (.wrSlCr1 w) := fun _ => ctlOf_opWord _ _ _
theorem rdSlCr3 : Statement .rdSlCr3 := fun _ => ctlOf_opWord _ _ _
theorem wrSlCr3 (w : Word) : Statement (.wrSlCr3 w) := fun _ => ctlOf_opWord _ _ _
theorem rdSlBrr : Statement .rdSlBrr := fun _ => ctlOf_opWord _ _ _
theorem wrSlBrr (w : Word) : Statement (.wrSlBrr w) := fun _ => ctlOf_opWord _ _ _
theorem rdSlIsr : Statement .rdSlIsr := fun _ => ctlOf_opWord _ _ _
theorem wrSlIsr (w : Word) : Statement (.wrSlIsr w) := fun _ => ctlOf_opWord _ _ _
theorem rdSlIcr : Statement .rdSlIcr := fun _ => ctlOf_opWord _ _ _
theorem wrSlIcr (w : Word) : Statement (.wrSlIcr w) := fun _ => ctlOf_opWord _ _ _
theorem rdSlRdr32 : Statement .rdSlRdr32 := fun _ => ctlOf_opWord _ _ _
theorem rdSlRdr8 : Statement .rdSlRdr8 := fun _ => ctlOf_opWord _ _ _
theorem wrSlRdr32 (w : Word) : Statement (.wrSlRdr32 w) := fun _ => ctlOf_opWord _ _ _
theorem wrSlRdr8 (b : Byte) : Statement (.wrSlRdr8 b) := fun _ => ctlOf_opWord _ _ _
theorem rdSlTdr32 : Statement .rdSlTdr32 := fun _ => ctlOf_opWord _ _ _
theorem rdSlTdr8 : Statement .rdSlTdr8 := fun _ => ctlOf_opWord _ _ _
theorem wrSlTdr32 (w : Word) : Statement (.wrSlTdr32 w) := fun _ => ctlOf_opWord _ _ _
theorem wrSlTdr8 (b : Byte) : Statement (.wrSlTdr8 b) := fun _ => ctlOf_opWord _ _ _
theorem rd8Mem (a : Word) : Statement (.rd8Mem a) := fun _ => ctlOf_opWord _ _ _
theorem wr8Mem (a : Word) (b : Byte) : Statement (.wr8Mem a b) := fun _ => ctlOf_opWord _ _ _
theorem cfgLine (baud : Word) : Statement (.cfgLine baud) := fun _ => ctlOf_opWord _ _ _
theorem init (baud : Word) : Statement (.init baud) := fun _ => ctlOf_opWord _ _ _
theorem irqenDma : Statement .irqenDma := fun _ => ctlOf_opWord _ _ _
theorem irqenErr : Statement .irqenErr := fun _ => ctlOf_opWord _ _ _
theorem armRx : Statement .armRx := fun _ => ctlOf_opWord _ _ _
theorem armTx (b : Byte) : Statement (.armTx b) := fun _ => ctlOf_opWord _ _ _
theorem disarmRx : Statement .disarmRx := fun _ => ctlOf_opWord _ _ _
theorem disarmTx : Statement .disarmTx := fun _ => ctlOf_opWord _ _ _
theorem clrtcRx : Statement .clrtcRx := fun _ => ctlOf_opWord _ _ _
theorem clrtcTx : Statement .clrtcTx := fun _ => ctlOf_opWord _ _ _
theorem davail : Statement .davail := fun _ => ctlOf_opWord _ _ _
theorem read : Statement .read := fun _ => ctlOf_opWord _ _ _
theorem stx (b : Byte) : Statement (.stx b) := fun _ => ctlOf_opWord _ _ _
theorem mloop : Statement .mloop := fun _ => ctlOf_opWord _ _ _

end Laws.EncodeClass

end Sys2Proof
end

