-- ==== Sys2Proof/Certificates/Slice0/Obligations.lean ====
section
/-!
DEFINITION. The statements for the provers.  In a statement about `exec`, `{ s with … }` lists every
field that changes: a command that ends makes `MAIN` idle and hands its result to the HOST (R285).
-/

open Sys2Proof Sys2Proof.Machine

/-! ## Encoding -/

/-- Decode and encode agree (spec/30_encoding.md R100 to R108): every well-formed instruction, with
every operand, is read back from its own word, for all launch parameters in their ranges (that the
windows end inside the address space is the model's reading, log entry 3). -/
def Obligations.DecodeEncodeAgree : Prop :=
  ∀ (p : Params) (i : Instr), p.Wf → i.wellFormed p = true → decode p (encode p i) = .ok i

/-- A word the decoder accepts is the encoding of the instruction it gives, group for group; only
the `DATA` of a read is free (R102: "ignored on a read"). -/
def Obligations.AcceptedWordsAreEncodings : Prop :=
  ∀ (p : Params) (t : OpWord) (i : Instr), decode p t = .ok i →
    i.wellFormed p = true ∧
    ctlOf (encode p i) = ctlOf t ∧ addrOf (encode p i) = addrOf t ∧
    (ctlOf t ≠ 0x00#8 → ctlOf t ≠ 0x02#8 → encode p i = t)

/-- What the decoder refuses and why: the reserved class (R101); of a BUS word, in the order of R106,
the must-be-zero bits, the widths that do not exist, an 8-bit write of more than a byte, an address
outside the windows, a misaligned 32-bit access, a 32-bit access of RAM, a 32-bit access at no
register, an 8-bit access at no register, and one within the four bytes of a register that is not at
the own address of `SL_RDR` or `SL_TDR` (R74, R146, R226); of a CMD word, a nonzero `ADDR`, an
undefined `CC`, and a nonzero must-be-zero `DATA` (R103, R108).  The clauses that name a register are
of launch parameters in their ranges (that the windows end inside the address space is the model's
reading, log entry 3). -/
def Obligations.DecodeRefusesInOrder : Prop :=
  ∀ (p : Params) (t : OpWord),
    (t.extractLsb' 70 2 = 3#2 → decode p t = .error .reservedEncoding) ∧
    (t.getLsbD 70 = false →
      (t.extractLsb' 66 4 ≠ 0#4 → decode p t = .error .reservedEncoding) ∧
      (t.extractLsb' 66 4 = 0#4 →
        (t.getLsbD 64 = true → decode p t = .error .unsupportedWidth) ∧
        (t.extractLsb' 64 2 = 0#2 → t.getLsbD 71 = true → t.extractLsb' 8 24 ≠ 0#24 →
          decode p t = .error .reservedEncoding) ∧
        (t.extractLsb' 64 2 = 2#2 →
          (¬ p.inDma (addrOf t) → ¬ p.inSl (addrOf t) → ¬ p.inRam (addrOf t) →
            decode p t = .error .unmappedAccess) ∧
          (p.inDma (addrOf t) ∨ p.inSl (addrOf t) ∨ p.inRam (addrOf t) →
            t.extractLsb' 32 2 ≠ 0#2 → decode p t = .error .misalignedAccess) ∧
          (p.inRam (addrOf t) → t.extractLsb' 32 2 = 0#2 →
            decode p t = .error .unsupportedWidth) ∧
          (p.Wf → p.inDma (addrOf t) ∨ p.inSl (addrOf t) → t.extractLsb' 32 2 = 0#2 →
            (∀ r : Reg, addrOf t ≠ p.regAddr r) →
            decode p t = .error .unimplementedRegister)) ∧
        (t.extractLsb' 64 2 = 0#2 → (t.getLsbD 71 = true → t.extractLsb' 8 24 = 0#24) →
          (¬ p.inDma (addrOf t) → ¬ p.inSl (addrOf t) → ¬ p.inRam (addrOf t) →
            decode p t = .error .unmappedAccess) ∧
          (∀ r : Reg, p.Wf → (p.regAddr r).toNat ≤ (addrOf t).toNat →
            (addrOf t).toNat < (p.regAddr r).toNat + 4 →
            ¬ (addrOf t = p.regAddr r ∧ (r = .slRdr ∨ r = .slTdr)) →
            decode p t = .error .unsupportedWidth) ∧
          (p.Wf → p.inDma (addrOf t) ∨ p.inSl (addrOf t) →
            (∀ r : Reg, ¬ ((p.regAddr r).toNat ≤ (addrOf t).toNat ∧
              (addrOf t).toNat < (p.regAddr r).toNat + 4)) →
            decode p t = .error .unimplementedRegister)))) ∧
    (t.extractLsb' 70 2 = 1#2 →
      (addrOf t ≠ 0#32 → decode p t = .error .reservedEncoding) ∧
      (t.extractLsb' 64 6 ∉ ([0x01, 0x02, 0x03, 0x04, 0x08, 0x09, 0x0A, 0x0B, 0x0C, 0x0D, 0x10, 0x11,
          0x12, 0x13] : List (BitVec 6)) → decode p t = .error .reservedEncoding) ∧
      (t.extractLsb' 64 6 ∈ ([0x03, 0x04, 0x08, 0x0A, 0x0B, 0x0C, 0x0D, 0x10, 0x11, 0x13] :
          List (BitVec 6)) → dataOf t ≠ 0#32 → decode p t = .error .reservedEncoding) ∧
      (t.extractLsb' 64 6 ∈ ([0x09, 0x12] : List (BitVec 6)) → t.extractLsb' 8 24 ≠ 0#24 →
        decode p t = .error .reservedEncoding))

/-- Words written out from the tables of R107 and R108 decode to the instructions they stand for. -/
def Obligations.SampleWordsDecode : Prop :=
  decodeTableWord 72 0x024002000000000000 = some .rdDmaIsr ∧
  decodeTableWord 72 0x824002000400000200 = some (.wrDmaIfcr 0x200#32) ∧
  decodeTableWord 72 0x824002001C00000013 = some (.wrCcrTx 0x13#32) ∧
  decodeTableWord 72 0x024001381C00000000 = some .rdSlIsr ∧
  decodeTableWord 72 0x004001382400000000 = some .rdSlRdr8 ∧
  decodeTableWord 72 0x8020003FFF000000AA = some (.wr8Mem 0x20003FFF#32 0xAA#8) ∧
  decodeTableWord 72 0x41000000000001C200 = some (.cfgLine 115200#32) ∧
  decodeTableWord 72 0x490000000000000041 = some (.armTx 0x41#8) ∧
  decodeTableWord 72 0x530000000000000000 = some .mloop

/-! ## The step -/

/-- A step runs the decoded instruction: on a `CPU` turn with nothing more urgent (R332), the word
`MAIN` holds is decoded and the step is `exec` of it; the schedule has moved on by one turn, and a
fault or a refusal is recorded in its mark.  The schedule in the state (log entry 5) and `MAIN`
holding its word and decoding it at each micro-step (log entry 4) are the model's. -/
def Obligations.StepRunsDecodedInstruction : Prop :=
  ∀ (s : State) (pick : CpuPick) (w : OpWord) (pos : MainPos) (t : Temps) (i : Instr),
    s.faultMark = none → s.refusedMark = none → s.nextTurn = .cpu pick →
    s.main = .running w pos t → s.hDma = .inactive → s.hErr = .inactive →
    s.dueDma = false → s.dueErr = false → decode s.params w = .ok i →
    step s = .next (record s.afterTurn (exec i s.afterTurn)) ∧
    (∀ s', exec i s.afterTurn = .next s' → step s = .next s')

/-- A word placed by `withFetchWord` is what the very next step runs; the placing is the model's (log
entry 9). -/
def Obligations.PlacedWordRunsNext : Prop :=
  ∀ (s : State) (nbits w : Nat) (i : Instr),
    decode s.params (BitVec.ofNat 72 w) = .ok i →
    step (s.withFetchWord nbits w) =
      .next (record { s.withFetchWord nbits w with sched := s.sched }
        (exec i { s.withFetchWord nbits w with sched := s.sched }))

/-- Faults and refusals end the run (R321, R322): a word that does not decode is refused (R109), the
step records the reason and changes nothing else; with a mark set no agent has a step.  That the
decode refusal comes at the word's first micro-step is the model's (log entry 4), and so is a step
that answers the mark where there is none (log entry 10). -/
def Obligations.MarksEndTheRun : Prop :=
  (∀ (s : State) (pick : CpuPick) (w : OpWord) (pos : MainPos) (t : Temps) (e : DecodeError),
    s.faultMark = none → s.refusedMark = none → s.nextTurn = .cpu pick →
    s.main = .running w pos t → s.hDma = .inactive → s.hErr = .inactive →
    s.dueDma = false → s.dueErr = false → decode s.params w = .error e →
    step s = .next { s.afterTurn with refusedMark := some (refusalOf e) }) ∧
  (∀ (s : State) (r : Fault), s.faultMark = some r → step s = .fault r) ∧
  (∀ (s : State) (r : Refusal), s.faultMark = none → s.refusedMark = some r → step s = .refused r)

/-! ## Bus operations on the DMA block -/

/-- R130: `RD_DMA_ISR` shows both completion flags, each in its two bits, and changes nothing. -/
def Obligations.ReadSharedStatus : Prop :=
  ∀ s : State, s.params.Wf →
    ∃ v : Word,
      exec .rdDmaIsr s = .next { s with main := .idle, results := s.results ++ [.word v] } ∧
      ∀ k : Nat, v.getLsbD k =
        ((decide (k = 4 * (s.params.rxCh - 1)) || decide (k = 4 * (s.params.rxCh - 1) + 1)) &&
            s.rx.tcif ||
          (decide (k = 4 * (s.params.txCh - 1)) || decide (k = 4 * (s.params.txCh - 1) + 1)) &&
            s.tx.tcif)

/-- R131, R218, R223: a write of a read-only register changes nothing. -/
def Obligations.ReadOnlyRegistersIgnoreWrites : Prop :=
  ∀ (s : State) (w : Word) (b : Byte),
    (exec (.wrDmaIsr w) s = .next { s with main := .idle, results := s.results ++ [.nothing] } ∧
      encode s.params (.wrDmaIsr w) = opWord 0x82#8 (s.params.dmaBase + 0x00#32) w) ∧
    (exec (.wrSlIsr w) s = .next { s with main := .idle, results := s.results ++ [.nothing] } ∧
      encode s.params (.wrSlIsr w) = opWord 0x82#8 (s.params.slBase + 0x1C#32) w) ∧
    (exec (.wrSlRdr32 w) s = .next { s with main := .idle, results := s.results ++ [.nothing] } ∧
      encode s.params (.wrSlRdr32 w) = opWord 0x82#8 (s.params.slBase + 0x24#32) w) ∧
    (exec (.wrSlRdr8 b) s = .next { s with main := .idle, results := s.results ++ [.nothing] } ∧
      encode s.params (.wrSlRdr8 b) = opWord 0x80#8 (s.params.slBase + 0x24#32) (byteData b))

/-- R132, R219: a write-only register reads 0, with no side effect. -/
def Obligations.WriteOnlyRegistersReadZero : Prop :=
  ∀ s : State,
    (exec .rdDmaIfcr s = .next { s with main := .idle, results := s.results ++ [.word 0#32] } ∧
      encode s.params .rdDmaIfcr = opWord 0x02#8 (s.params.dmaBase + 0x04#32) 0#32) ∧
    (exec .rdSlIcr s = .next { s with main := .idle, results := s.results ++ [.word 0#32] } ∧
      encode s.params .rdSlIcr = opWord 0x02#8 (s.params.slBase + 0x20#32) 0#32)

/-- R133: `WR_DMA_IFCR` clears the flag of each channel whose `CTCIF` or `CGIF` bit is 1, and does
nothing else. -/
def Obligations.ClearCompletionFlags : Prop :=
  ∀ (s : State) (w : Word),
    exec (.wrDmaIfcr w) s = .next { s with
      rx := { s.rx with
        tcif := s.rx.tcif && !(w.getLsbD (4 * (s.params.rxCh - 1) + 1) ||
          w.getLsbD (4 * (s.params.rxCh - 1))) }
      tx := { s.tx with
        tcif := s.tx.tcif && !(w.getLsbD (4 * (s.params.txCh - 1) + 1) ||
          w.getLsbD (4 * (s.params.txCh - 1))) }
      main := .idle
      results := s.results ++ [.nothing] }

/-- R134, R140, R142, R144: the configuration reads as its fields and 0 in every other bit; the count,
zero extended, and the two addresses read back in every channel state; no read has a side effect.
Each with its word. -/
def Obligations.ReadChannelRegisters : Prop :=
  ∀ s : State,
    (encode s.params .rdCcrRx = opWord 0x02#8
        (s.params.dmaBase + BitVec.ofNat 32 (0x08 + 20 * (s.params.rxCh - 1))) 0#32 ∧
      ∃ v : Word,
        exec .rdCcrRx s = .next { s with main := .idle, results := s.results ++ [.word v] } ∧
        ∀ k : Nat, v.getLsbD k =
          (decide (k = 0 ∨ k = 1 ∨ k = 4 ∨ k = 12 ∨ k = 13) && s.rx.ccr.getLsbD k)) ∧
    (encode s.params .rdCcrTx = opWord 0x02#8
        (s.params.dmaBase + BitVec.ofNat 32 (0x08 + 20 * (s.params.txCh - 1))) 0#32 ∧
      ∃ v : Word,
        exec .rdCcrTx s = .next { s with main := .idle, results := s.results ++ [.word v] } ∧
        ∀ k : Nat, v.getLsbD k =
          (decide (k = 0 ∨ k = 1 ∨ k = 4 ∨ k = 12 ∨ k = 13) && s.tx.ccr.getLsbD k)) ∧
    (encode s.params .rdCndtrRx = opWord 0x02#8
        (s.params.dmaBase + BitVec.ofNat 32 (0x0C + 20 * (s.params.rxCh - 1))) 0#32 ∧
      exec .rdCndtrRx s = .next { s with
        main := .idle, results := s.results ++ [.word (s.rx.ndt.setWidth 32)] }) ∧
    (encode s.params .rdCndtrTx = opWord 0x02#8
        (s.params.dmaBase + BitVec.ofNat 32 (0x0C + 20 * (s.params.txCh - 1))) 0#32 ∧
      exec .rdCndtrTx s = .next { s with
        main := .idle, results := s.results ++ [.word (s.tx.ndt.setWidth 32)] }) ∧
    (encode s.params .rdCparRx = opWord 0x02#8
        (s.params.dmaBase + BitVec.ofNat 32 (0x10 + 20 * (s.params.rxCh - 1))) 0#32 ∧
      exec .rdCparRx s = .next { s with
        main := .idle, results := s.results ++ [.word s.rx.cpar] }) ∧
    (encode s.params .rdCparTx = opWord 0x02#8
        (s.params.dmaBase + BitVec.ofNat 32 (0x10 + 20 * (s.params.txCh - 1))) 0#32 ∧
      exec .rdCparTx s = .next { s with
        main := .idle, results := s.results ++ [.word s.tx.cpar] }) ∧
    (encode s.params .rdCmarRx = opWord 0x02#8
        (s.params.dmaBase + BitVec.ofNat 32 (0x14 + 20 * (s.params.rxCh - 1))) 0#32 ∧
      exec .rdCmarRx s = .next { s with
        main := .idle, results := s.results ++ [.word s.rx.cmar] }) ∧
    (encode s.params .rdCmarTx = opWord 0x02#8
        (s.params.dmaBase + BitVec.ofNat 32 (0x14 + 20 * (s.params.txCh - 1))) 0#32 ∧
      exec .rdCmarTx s = .next { s with
        main := .idle, results := s.results ++ [.word s.tx.cmar] })

/-- R135 to R138: when `WR_CCR_c` completes, and what it stores.  The word has no reserved bit; an
enabled channel keeps every field but `EN` and `TCIE`; a channel that is enabled by the write has
its role's direction and addresses and a count of 0 or 1. -/
def Obligations.WriteChannelConfigurationCompletes : Prop :=
  ∀ (s : State) (w : Word), w &&& 0xFFFFCFEC#32 = 0#32 →
    ((s.rx.ccr.getLsbD 0 = true → w &&& 0x3010#32 = s.rx.ccr &&& 0x3010#32) →
      (s.rx.ccr.getLsbD 0 = false → w.getLsbD 0 = true →
        w.getLsbD 4 = false ∧ s.rx.cpar = s.params.slBase + 0x24#32 ∧
          s.rx.cmar = s.params.rxCellAddr ∧ (s.rx.ndt = 0#16 ∨ s.rx.ndt = 1#16)) →
      exec (.wrCcrRx w) s = .next { s with
        rx := { s.rx with ccr := w }, main := .idle, results := s.results ++ [.nothing] }) ∧
    ((s.tx.ccr.getLsbD 0 = true → w &&& 0x3010#32 = s.tx.ccr &&& 0x3010#32) →
      (s.tx.ccr.getLsbD 0 = false → w.getLsbD 0 = true →
        w.getLsbD 4 = true ∧ s.tx.cpar = s.params.slBase + 0x28#32 ∧
          s.tx.cmar = s.params.txCellAddr ∧ (s.tx.ndt = 0#16 ∨ s.tx.ndt = 1#16)) →
      exec (.wrCcrTx w) s = .next { s with
        tx := { s.tx with ccr := w }, main := .idle, results := s.results ++ [.nothing] })

/-- R135, R145, R324: where `WR_CCR_c` stops, in the order of its checks: a reserved bit, a mutation
of an enabled channel, an illegal binding, a count of 2 or more. -/
def Obligations.WriteChannelConfigurationStops : Prop :=
  ∀ (s : State) (w : Word),
    (w &&& 0xFFFFCFEC#32 ≠ 0#32 →
      exec (.wrCcrRx w) s = .refused .reservedBits ∧
      exec (.wrCcrTx w) s = .refused .reservedBits) ∧
    (w &&& 0xFFFFCFEC#32 = 0#32 →
      (s.rx.ccr.getLsbD 0 = true → w &&& 0x3010#32 ≠ s.rx.ccr &&& 0x3010#32 →
        exec (.wrCcrRx w) s = .fault (.enabledChannelMutation .rx .ccr)) ∧
      (s.tx.ccr.getLsbD 0 = true → w &&& 0x3010#32 ≠ s.tx.ccr &&& 0x3010#32 →
        exec (.wrCcrTx w) s = .fault (.enabledChannelMutation .tx .ccr)) ∧
      (w.getLsbD 0 = true → s.rx.ccr.getLsbD 0 = false →
        (¬ (w.getLsbD 4 = false ∧ s.rx.cpar = s.params.slBase + 0x24#32 ∧
            s.rx.cmar = s.params.rxCellAddr) →
          exec (.wrCcrRx w) s = .refused .illegalChannelConfig) ∧
        (w.getLsbD 4 = false ∧ s.rx.cpar = s.params.slBase + 0x24#32 ∧
            s.rx.cmar = s.params.rxCellAddr → 2 ≤ s.rx.ndt.toNat →
          exec (.wrCcrRx w) s = .refused .unsupportedCount)) ∧
      (w.getLsbD 0 = true → s.tx.ccr.getLsbD 0 = false →
        (¬ (w.getLsbD 4 = true ∧ s.tx.cpar = s.params.slBase + 0x28#32 ∧
            s.tx.cmar = s.params.txCellAddr) →
          exec (.wrCcrTx w) s = .refused .illegalChannelConfig) ∧
        (w.getLsbD 4 = true ∧ s.tx.cpar = s.params.slBase + 0x28#32 ∧
            s.tx.cmar = s.params.txCellAddr → 2 ≤ s.tx.ndt.toNat →
          exec (.wrCcrTx w) s = .refused .unsupportedCount)))

/-- R139, R141, R143: on a disabled channel the count (of 16 bits) and the addresses are stored. -/
def Obligations.WriteCountsAndAddressesComplete : Prop :=
  ∀ (s : State) (w : Word) (n : BitVec 16),
    (s.rx.ccr.getLsbD 0 = false →
      exec (.wrCndtrRx (n.setWidth 32)) s = .next { s with
        rx := { s.rx with ndt := n }, main := .idle, results := s.results ++ [.nothing] } ∧
      exec (.wrCparRx w) s = .next { s with
        rx := { s.rx with cpar := w }, main := .idle, results := s.results ++ [.nothing] } ∧
      exec (.wrCmarRx w) s = .next { s with
        rx := { s.rx with cmar := w }, main := .idle, results := s.results ++ [.nothing] }) ∧
    (s.tx.ccr.getLsbD 0 = false →
      exec (.wrCndtrTx (n.setWidth 32)) s = .next { s with
        tx := { s.tx with ndt := n }, main := .idle, results := s.results ++ [.nothing] } ∧
      exec (.wrCparTx w) s = .next { s with
        tx := { s.tx with cpar := w }, main := .idle, results := s.results ++ [.nothing] } ∧
      exec (.wrCmarTx w) s = .next { s with
        tx := { s.tx with cmar := w }, main := .idle, results := s.results ++ [.nothing] })

/-- R139, R141, R143, R145: on an enabled channel each of those writes is the mutation fault, even of
the value stored; a count of more than 16 bits is refused first. -/
def Obligations.EnabledChannelMutationFaults : Prop :=
  ∀ (s : State) (w : Word),
    (65536 ≤ w.toNat →
      exec (.wrCndtrRx w) s = .refused .reservedBits ∧
      exec (.wrCndtrTx w) s = .refused .reservedBits) ∧
    (s.rx.ccr.getLsbD 0 = true →
      (w.toNat < 65536 →
        exec (.wrCndtrRx w) s = .fault (.enabledChannelMutation .rx .cndtr)) ∧
      exec (.wrCparRx w) s = .fault (.enabledChannelMutation .rx .cpar) ∧
      exec (.wrCmarRx w) s = .fault (.enabledChannelMutation .rx .cmar)) ∧
    (s.tx.ccr.getLsbD 0 = true →
      (w.toNat < 65536 →
        exec (.wrCndtrTx w) s = .fault (.enabledChannelMutation .tx .cndtr)) ∧
      exec (.wrCparTx w) s = .fault (.enabledChannelMutation .tx .cpar) ∧
      exec (.wrCmarTx w) s = .fault (.enabledChannelMutation .tx .cmar))

/-! ## Bus operations on the serial line -/

/-- R211, R213, R215: the two control registers read as their fields and 0 elsewhere, the divisor
zero extended; no read has a side effect.  Each with its word. -/
def Obligations.ReadLineControl : Prop :=
  ∀ s : State,
    (encode s.params .rdSlCr1 = opWord 0x02#8 (s.params.slBase + 0x00#32) 0#32 ∧
      ∃ v : Word,
        exec .rdSlCr1 s = .next { s with main := .idle, results := s.results ++ [.word v] } ∧
        ∀ k : Nat, v.getLsbD k =
          (decide (k = 0 ∨ k = 2 ∨ k = 3 ∨ k = 8) && s.sl.cr1.getLsbD k)) ∧
    (encode s.params .rdSlCr3 = opWord 0x02#8 (s.params.slBase + 0x08#32) 0#32 ∧
      ∃ v : Word,
        exec .rdSlCr3 s = .next { s with main := .idle, results := s.results ++ [.word v] } ∧
        ∀ k : Nat, v.getLsbD k =
          (decide (k = 0 ∨ k = 6 ∨ k = 7) && s.sl.cr3.getLsbD k)) ∧
    (encode s.params .rdSlBrr = opWord 0x02#8 (s.params.slBase + 0x0C#32) 0#32 ∧
      exec .rdSlBrr s = .next { s with
        main := .idle, results := s.results ++ [.word (s.sl.div.setWidth 32)] })

/-- R212, R214, R216: the control registers and the divisor are stored when no reserved bit is
written, and nothing else changes; with a reserved bit the write is refused. -/
def Obligations.WriteLineControl : Prop :=
  ∀ (s : State) (w : Word),
    (w &&& 0xFFFFFEF2#32 = 0#32 →
      exec (.wrSlCr1 w) s = .next { s with
        sl := { s.sl with cr1 := w }, main := .idle, results := s.results ++ [.nothing] }) ∧
    (w &&& 0xFFFFFEF2#32 ≠ 0#32 → exec (.wrSlCr1 w) s = .refused .reservedBits) ∧
    (w &&& 0xFFFFFF3E#32 = 0#32 →
      exec (.wrSlCr3 w) s = .next { s with
        sl := { s.sl with cr3 := w }, main := .idle, results := s.results ++ [.nothing] }) ∧
    (w &&& 0xFFFFFF3E#32 ≠ 0#32 → exec (.wrSlCr3 w) s = .refused .reservedBits) ∧
    (∀ d : BitVec 16, exec (.wrSlBrr (d.setWidth 32)) s = .next { s with
        sl := { s.sl with div := d }, main := .idle, results := s.results ++ [.nothing] }) ∧
    (65536 ≤ w.toNat → exec (.wrSlBrr w) s = .refused .reservedBits)

/-- R217: `RD_SL_ISR`, with its word, shows the six stored bits, 0 elsewhere, and clears nothing. -/
def Obligations.ReadLineStatus : Prop :=
  ∀ s : State,
    encode s.params .rdSlIsr = opWord 0x02#8 (s.params.slBase + 0x1C#32) 0#32 ∧
    ∃ v : Word,
      exec .rdSlIsr s = .next { s with main := .idle, results := s.results ++ [.word v] } ∧
      ∀ k : Nat, v.getLsbD k =
        (decide (k = 0) && s.sl.pe || decide (k = 1) && s.sl.fe || decide (k = 2) && s.sl.nf ||
          decide (k = 3) && s.sl.ore || decide (k = 5) && s.sl.rxne || decide (k = 7) && s.sl.txe)

/-- R220: `WR_SL_ICR`, with its word: each of the four error flags is cleared by its own bit and by no
other; the other bits are ignored, no flag is set, and nothing else changes. -/
def Obligations.ClearLineErrorsIndependently : Prop :=
  ∀ (s : State) (w : Word),
    encode s.params (.wrSlIcr w) = opWord 0x82#8 (s.params.slBase + 0x20#32) w ∧
    exec (.wrSlIcr w) s = .next { s with
      sl := { s.sl with
        pe := if w.getLsbD 0 = true then false else s.sl.pe
        fe := if w.getLsbD 1 = true then false else s.sl.fe
        nf := if w.getLsbD 2 = true then false else s.sl.nf
        ore := if w.getLsbD 3 = true then false else s.sl.ore }
      main := .idle
      results := s.results ++ [.nothing] }

/-- R222, R224, R225: a read of `SL_RDR` gives the byte, zero extended, and clears `RXNE`; a read of
`SL_TDR` gives the byte and changes nothing; a write of `SL_TDR` stores the byte and clears `TXE`, and
a 32-bit write of more than a byte is refused. -/
def Obligations.DataRegisters : Prop :=
  ∀ (s : State) (b : Byte) (w : Word),
    (exec .rdSlRdr32 s = .next { s with
        sl := { s.sl with rxne := false }
        main := .idle, results := s.results ++ [.word (s.sl.rdr.setWidth 32)] } ∧
      exec .rdSlRdr8 s = .next { s with
        sl := { s.sl with rxne := false }
        main := .idle, results := s.results ++ [.byte s.sl.rdr] }) ∧
    (exec .rdSlTdr32 s = .next { s with
        main := .idle, results := s.results ++ [.word (s.sl.tdr.setWidth 32)] } ∧
      exec .rdSlTdr8 s = .next { s with
        main := .idle, results := s.results ++ [.byte s.sl.tdr] }) ∧
    exec (.wrSlTdr32 (b.setWidth 32)) s = .next { s with
      sl := { s.sl with tdr := b, txe := false }
      main := .idle, results := s.results ++ [.nothing] } ∧
    exec (.wrSlTdr8 b) s = .next { s with
      sl := { s.sl with tdr := b, txe := false }
      main := .idle, results := s.results ++ [.nothing] } ∧
    (256 ≤ w.toNat → exec (.wrSlTdr32 w) s = .refused .reservedBits)

/-! ## Memory -/

/-- R76: `WR8_MEM` makes the byte at `a` the byte written; every other address reads as before, and
nothing else changes. -/
def Obligations.StoreByteThenRead : Prop :=
  ∀ (s : State) (a : Word) (b : Byte), s.params.inRam a →
    ∃ m : List Host.Cell,
      exec (.wr8Mem a b) s = .next { s with
        mem := m, main := .idle, results := s.results ++ [.nothing] } ∧
      ({ s with mem := m } : State).byteAt a = some b ∧
      ∀ x : Word, x ≠ a → ({ s with mem := m } : State).byteAt x = s.byteAt x

/-- R75, R77: `RD8_MEM` gives the byte at `a` and changes nothing; a byte never written is the fault
`UnwrittenRead`. -/
def Obligations.LoadByte : Prop :=
  ∀ (s : State) (a : Word), s.params.inRam a →
    (∀ b, s.byteAt a = some b →
      exec (.rd8Mem a) s = .next { s with
        main := .idle, results := s.results ++ [.byte b] }) ∧
    (s.byteAt a = none → exec (.rd8Mem a) s = .fault (.unwrittenRead a))

/-! ## The transfer engine -/

/-- R186, R187: undisturbed, `ARM_RX` runs its seven micro-steps from any channel state and ends with
the channel Armed, its completion flag unchanged; the first reads `CCR[RX]` into `x[v]`. -/
def Obligations.ArmReceiveCompletes : Prop :=
  ∀ s : State, s.mainPos = .first →
    exec .armRx s = .next (s.mainAt .armRx (.arm .a2)
      { s.mainTemps with v := s.rx.ccr &&& 0x3013#32 }) ∧
    repeatOut (exec .armRx) 7 s = .next { s with
      rx :=
        { ccr := 0x00000003#32
          ndt := 1#16
          cpar := s.params.slBase + 0x24#32
          cmar := s.params.rxCellAddr
          tcif := s.rx.tcif }
      main := .idle
      results := s.results ++ [.nothing] }

/-- R188: undisturbed, `ARM_TX b` stores the byte in `txCell` and then arms the transmit channel; no
other byte of memory changes. -/
def Obligations.ArmTransmitCompletes : Prop :=
  ∀ (s : State) (b : Byte), s.mainPos = .first → s.params.inRam s.params.txCellAddr →
    ∃ m : List Host.Cell,
      exec (.armTx b) s = .next
        (({ s with mem := m } : State).mainAt (.armTx b) (.arm .a1) s.mainTemps) ∧
      repeatOut (exec (.armTx b)) 8 s = .next { s with
        tx :=
          { ccr := 0x00000013#32
            ndt := 1#16
            cpar := s.params.slBase + 0x28#32
            cmar := s.params.txCellAddr
            tcif := s.tx.tcif }
        mem := m
        main := .idle
        results := s.results ++ [.nothing] } ∧
      ({ s with mem := m } : State).byteAt s.params.txCellAddr = some b ∧
      ∀ x : Word, x ≠ s.params.txCellAddr → ({ s with mem := m } : State).byteAt x = s.byteAt x

/-- R189: undisturbed, `DISARM_c` clears `EN` and keeps the other fields of `CCR[c]`, the count, the
addresses and the completion flag. -/
def Obligations.DisarmCompletes : Prop :=
  ∀ s : State, s.mainPos = .first →
    (exec .disarmRx s = .next (s.mainAt .disarmRx (.disarm .q2)
        { s.mainTemps with v := s.rx.ccr &&& 0x3013#32 }) ∧
      repeatOut (exec .disarmRx) 2 s = .next { s with
        rx := { s.rx with ccr := s.rx.ccr &&& 0x3012#32 }
        main := .idle
        results := s.results ++ [.nothing] }) ∧
    (exec .disarmTx s = .next (s.mainAt .disarmTx (.disarm .q2)
        { s.mainTemps with v := s.tx.ccr &&& 0x3013#32 }) ∧
      repeatOut (exec .disarmTx) 2 s = .next { s with
        tx := { s.tx with ccr := s.tx.ccr &&& 0x3012#32 }
        main := .idle
        results := s.results ++ [.nothing] })

/-- R190: `CLRTC_c` is one write of bit `TC(c)` to `DMA_IFCR`, in one step; it clears `TCIF[c]` and
nothing else. -/
def Obligations.ClearFlagCommands : Prop :=
  ∀ s : State, s.params.Wf →
    (encode s.params .clrtcRx = opWord 0x4C#8 0#32 0#32 ∧
      exec .clrtcRx s = exec (.wrDmaIfcr (BitVec.ofNat 32 (2 ^ (4 * (s.params.rxCh - 1) + 1)))) s ∧
      exec .clrtcRx s = .next { s with
        rx := { s.rx with tcif := false }, main := .idle, results := s.results ++ [.nothing] }) ∧
    (encode s.params .clrtcTx = opWord 0x4D#8 0#32 0#32 ∧
      exec .clrtcTx s = exec (.wrDmaIfcr (BitVec.ofNat 32 (2 ^ (4 * (s.params.txCh - 1) + 1)))) s ∧
      exec .clrtcTx s = .next { s with
        tx := { s.tx with tcif := false }, main := .idle, results := s.results ++ [.nothing] })

/-- R178: `XFER(c)`, one atomic step.  `XFER(RX)`: the received byte goes to the memory cell, `RXNE`
and the count go to 0, the completion flag is set, `EN` stays, and no other byte of memory changes.
`XFER(TX)`: the byte of the memory cell goes to `SL_TDR`, `TXE` and the count go to 0, the completion
flag is set, `EN` stays; an unwritten cell (R77) is recorded as the fault. -/
def Obligations.TransferSteps : Prop :=
  ∀ s : State, s.faultMark = none → s.refusedMark = none →
    (s.nextTurn = .ch .rx → s.granted .rx = true → s.params.inRam s.rx.cmar →
      ∃ m : List Host.Cell,
        step s = .next { s.afterTurn with
          rx := { s.rx with ndt := 0#16, tcif := true }
          sl := { s.sl with rxne := false }
          mem := m } ∧
        ({ s with mem := m } : State).byteAt s.rx.cmar = some s.sl.rdr ∧
        ∀ x : Word, x ≠ s.rx.cmar → ({ s with mem := m } : State).byteAt x = s.byteAt x) ∧
    (s.nextTurn = .ch .tx → s.granted .tx = true → s.params.inRam s.tx.cmar →
      (∀ b, s.byteAt s.tx.cmar = some b →
        step s = .next { s.afterTurn with
          tx := { s.tx with ndt := 0#16, tcif := true }
          sl := { s.sl with tdr := b, txe := false } }) ∧
      (s.byteAt s.tx.cmar = none →
        step s = .next { s.afterTurn with faultMark := some (.unwrittenRead s.tx.cmar) }))

/-- R171, R174 to R176: a channel is ready exactly when it is Armed (enabled, with a count of 1) and
its request line is up, whatever the error flags and the rest of the state are; only a ready channel
is granted; and the turn of a channel that is not granted changes nothing (a turn that passes is the
model's, log entry 5). -/
def Obligations.TransferNeedsRequest : Prop :=
  ∀ (s : State) (c : Role),
    (s.ready c = true ↔
      (s.chan c).ccr.getLsbD 0 = true ∧ (s.chan c).ndt = 1#16 ∧ s.sl.cr1.getLsbD 0 = true ∧
      (c = .rx → s.sl.cr1.getLsbD 2 = true ∧ s.sl.cr3.getLsbD 6 = true ∧ s.sl.rxne = true) ∧
      (c = .tx → s.sl.cr1.getLsbD 3 = true ∧ s.sl.cr3.getLsbD 7 = true ∧ s.sl.txe = true)) ∧
    (s.granted c = true → s.ready c = true) ∧
    (s.faultMark = none → s.refusedMark = none → s.nextTurn = .ch c → s.granted c = false →
      step s = .next s.afterTurn)

/-- R177: with both channels ready and `FIXED`, exactly one is granted: the one with the larger `PL`,
and, `PL` being equal, the one with the smaller channel number; with `FREE` both are; a channel
ready alone is granted. -/
def Obligations.ArbiterGrants : Prop :=
  ∀ s : State, s.params.Wf →
    (s.ready .rx = true → s.ready .tx = true → s.params.arbPolicy = .fixed →
      (s.granted .rx = !s.granted .tx) ∧
      (s.tx.ccr.extractLsb' 12 2 < s.rx.ccr.extractLsb' 12 2 → s.granted .rx = true) ∧
      (s.rx.ccr.extractLsb' 12 2 < s.tx.ccr.extractLsb' 12 2 → s.granted .tx = true) ∧
      (s.rx.ccr.extractLsb' 12 2 = s.tx.ccr.extractLsb' 12 2 →
        (s.granted .rx = true ↔ s.params.rxCh < s.params.txCh))) ∧
    (s.ready .rx = true → s.ready .tx = true → s.params.arbPolicy = .free →
      s.granted .rx = true ∧ s.granted .tx = true) ∧
    (∀ c d : Role, c ≠ d → s.ready c = true → s.ready d = false → s.granted c = true)

/-- R25, R176, R182: `TCIF[c]` is set by the transfer of its channel and by nothing else. -/
def Obligations.OnlyTransfersSetCompletionFlags : Prop :=
  ∀ (s s' : State) (c : Role), step s = .next s' →
    (s.chan c).tcif = false → (s'.chan c).tcif = true →
    s.nextTurn = .ch c ∧ s.granted c = true

/-! ## The serial line -/

/-- R228: the step of `SLRX`, case by case: receiver off, stalled by an overrun, a marked frame, an
overrun, a good frame. -/
def Obligations.FrameArrival : Prop :=
  ∀ (s : State) (f : Frame) (rest : List Frame),
    s.faultMark = none → s.refusedMark = none → s.nextTurn = .slrx → s.rxWire = f :: rest →
    step s = .next
      (if s.sl.cr1.getLsbD 0 = false ∨ s.sl.cr1.getLsbD 2 = false then
        { s.afterTurn with rxWire := rest }
      else if s.params.oreBlocksRx = true ∧ s.sl.ore = true then
        { s.afterTurn with rxWire := rest }
      else if f.fe = true ∨ f.nf = true ∨ f.pe = true then
        { s.afterTurn with
          rxWire := rest
          sl := { s.sl with
            fe := s.sl.fe || f.fe, nf := s.sl.nf || f.nf, pe := s.sl.pe || f.pe } }
      else if s.sl.rxne = true then
        { s.afterTurn with rxWire := rest, sl := { s.sl with ore := true } }
      else
        { s.afterTurn with
          rxWire := rest, sl := { s.sl with rdr := f.data, rxne := true } })

/-- R230: the step `EMIT` of `SLTX`, where it is enabled: the byte of `SL_TDR` joins the line and `TXE`
is set. -/
def Obligations.EmissionStep : Prop :=
  ∀ s : State, s.faultMark = none → s.refusedMark = none → s.nextTurn = .sltx →
    s.sl.cr1.getLsbD 0 = true → s.sl.cr1.getLsbD 3 = true → s.sl.txe = false →
    step s = .next { s.afterTurn with
      txLine := s.txLine ++ [s.sl.tdr], sl := { s.sl with txe := true } }

/-- R184, R233: the two interrupt lines, functions of the flags and their enables. -/
def Obligations.InterruptLines : Prop :=
  ∀ s : State,
    (s.irqDma = true ↔
      s.rx.tcif = true ∧ s.rx.ccr.getLsbD 1 = true ∨
      s.tx.tcif = true ∧ s.tx.ccr.getLsbD 1 = true) ∧
    (s.sl.irqErr = true ↔
      s.sl.cr3.getLsbD 0 = true ∧ (s.sl.ore = true ∨ s.sl.fe = true ∨ s.sl.nf = true) ∨
      s.sl.cr1.getLsbD 8 = true ∧ s.sl.pe = true)

/-- R235, R236: undisturbed, `CFGLINE baud` with a rate whose divisor fits 16 bits runs its ten
micro-steps; the line is configured, its error interrupt enabled, and the status flags, the data
registers and the DMA block untouched. -/
def Obligations.ConfigureLineCompletes : Prop :=
  ∀ (s : State) (baud : Word), s.mainPos = .first → baud ≠ 0#32 →
    1 ≤ s.params.clkHz / baud.toNat → s.params.clkHz / baud.toNat ≤ 0xFFFF →
    exec (.cfgLine baud) s = .next (s.mainAt (.cfgLine baud) (.cfg .c1) s.mainTemps) ∧
    repeatOut (exec (.cfgLine baud)) 10 s = .next { s with
      sl := { s.sl with
        cr1 := 0x0000010D#32
        cr3 := 0x000000C1#32
        div := BitVec.ofNat 16 (s.params.clkHz / baud.toNat) }
      ienErr := true
      main := .idle
      results := s.results ++ [.nothing] }

/-- R237, R284: `CFGLINE` and `INIT` refuse a rate of 0 and a divisor that is 0 or does not fit 16
bits, before any register is written; the mainline surface does not exist in the autonomous
variant. -/
def Obligations.CommandsRefused : Prop :=
  ∀ s : State,
    (∀ baud : Word, s.mainPos = .first →
      (baud = 0#32 →
        exec (.cfgLine baud) s = .refused .zeroBaud ∧ exec (.init baud) s = .refused .zeroBaud) ∧
      (baud ≠ 0#32 →
        s.params.clkHz / baud.toNat = 0 ∨ 0xFFFF < s.params.clkHz / baud.toNat →
        exec (.cfgLine baud) s = .refused .divisorOutOfRange ∧
        exec (.init baud) s = .refused .divisorOutOfRange)) ∧
    (∀ b : Byte, s.params.echoPolicy = .autonomous →
      exec .davail s = .refused .commandNotInVariant ∧
      exec .read s = .refused .commandNotInVariant ∧
      exec (.stx b) s = .refused .commandNotInVariant ∧
      exec .mloop s = .refused .commandNotInVariant)

/-! ## The coordinator -/

/-- R286: undisturbed, `INIT baud` configures the line, enables both interrupts and arms the receive
channel, in eighteen micro-steps. -/
def Obligations.StartUpCompletes : Prop :=
  ∀ (s : State) (baud : Word), s.mainPos = .first → baud ≠ 0#32 →
    1 ≤ s.params.clkHz / baud.toNat → s.params.clkHz / baud.toNat ≤ 0xFFFF →
    exec (.init baud) s = .next (s.mainAt (.init baud) (.cfg .c1) s.mainTemps) ∧
    repeatOut (exec (.init baud)) 18 s = .next { s with
      sl := { s.sl with
        cr1 := 0x0000010D#32
        cr3 := 0x000000C1#32
        div := BitVec.ofNat 16 (s.params.clkHz / baud.toNat) }
      rx :=
        { ccr := 0x00000003#32
          ndt := 1#16
          cpar := s.params.slBase + 0x24#32
          cmar := s.params.rxCellAddr
          tcif := s.rx.tcif }
      ienDma := true
      ienErr := true
      main := .idle
      results := s.results ++ [.nothing] }

/-- R329: `IRQEN_DMA` and `IRQEN_ERR`, one micro-step each. -/
def Obligations.EnableInterruptCommands : Prop :=
  ∀ s : State,
    exec .irqenDma s = .next { s with
      ienDma := true, main := .idle, results := s.results ++ [.nothing] } ∧
    exec .irqenErr s = .next { s with
      ienErr := true, main := .idle, results := s.results ++ [.nothing] }

/-- R280, R281: in the cooperative variant `DAVAIL` gives `rxComplete` in one step and changes
nothing; `READ`, undisturbed, gives the byte in `rxCell` and clears `rxComplete` in two, whatever
`rxComplete` was, and faults where nothing was ever written to `rxCell`. -/
def Obligations.MainlineReads : Prop :=
  ∀ s : State, s.params.echoPolicy = .cooperative →
    (encode s.params .davail = opWord 0x50#8 0#32 0#32 ∧
      exec .davail s = .next { s with
        main := .idle, results := s.results ++ [.bit s.rxComplete] }) ∧
    encode s.params .read = opWord 0x51#8 0#32 0#32 ∧
    (s.mainPos = .first → s.params.inRam s.params.rxCellAddr →
      (∀ b, s.byteAt s.params.rxCellAddr = some b →
        exec .read s = .next (s.mainAt .read (.read .m2) { s.mainTemps with b := b }) ∧
        repeatOut (exec .read) 2 s = .next { s with
          rxComplete := false, main := .idle, results := s.results ++ [.byte b] }) ∧
      (s.byteAt s.params.rxCellAddr = none →
        exec .read s = .fault (.unwrittenRead s.params.rxCellAddr)))

/-- R282: in the cooperative variant, with no transmit in flight by the test that is built,
`STX b`, undisturbed, clears `txDone`, stores the byte in `txCell` and arms the transmit channel. -/
def Obligations.StartTransmitCompletes : Prop :=
  ∀ (s : State) (b : Byte), s.params.echoPolicy = .cooperative → s.mainPos = .first →
    s.params.inRam s.params.txCellAddr →
    (s.params.txWaitMode = .flag → s.txDone = true) →
    (s.params.txWaitMode = .enbit → s.tx.ccr.getLsbD 0 = false) →
    (∃ t : Temps, exec (.stx b) s = .next (s.mainAt (.stx b) (.stx .w2) t)) ∧
    ∃ m : List Host.Cell,
      repeatOut (exec (.stx b)) 10 s = .next { s with
        tx :=
          { ccr := 0x00000013#32
            ndt := 1#16
            cpar := s.params.slBase + 0x28#32
            cmar := s.params.txCellAddr
            tcif := s.tx.tcif }
        mem := m
        txDone := false
        main := .idle
        results := s.results ++ [.nothing] } ∧
      ({ s with mem := m } : State).byteAt s.params.txCellAddr = some b ∧
      ∀ x : Word, x ≠ s.params.txCellAddr → ({ s with mem := m } : State).byteAt x = s.byteAt x

/-- R282, R323: while a transmit is in flight `STX` stays at `w1`: only its temporaries change, so
no register of the channel and no cell is written before the completion is observed. -/
def Obligations.StartTransmitSpins : Prop :=
  ∀ (s : State) (b : Byte), s.params.echoPolicy = .cooperative →
    (s.mainPos = .first ∨ s.mainPos = .stx .w1) →
    (s.params.txWaitMode = .flag → s.txDone = false) →
    (s.params.txWaitMode = .enbit → s.tx.ccr.getLsbD 0 = true) →
    ∃ t : Temps, exec (.stx b) s = .next (s.mainAt (.stx b) (.stx .w1) t)

/-- R283: one turn of `MLOOP`.  With nothing received it polls again; with a byte received and no
transmit in flight, undisturbed, it reads the byte, starts its transmission and is back at `p1`
after thirteen micro-steps, with no result handed over. -/
def Obligations.MainLoopTurn : Prop :=
  ∀ s : State, s.params.echoPolicy = .cooperative → s.mainPos = .first →
    (s.rxComplete = false →
      exec .mloop s = .next (s.mainAt .mloop .first { s.mainTemps with t := false })) ∧
    (s.rxComplete = true →
      exec .mloop s = .next (s.mainAt .mloop (.p2 .m1) { s.mainTemps with t := true })) ∧
    (∀ b, s.rxComplete = true → s.byteAt s.params.rxCellAddr = some b →
      s.params.inRam s.params.rxCellAddr → s.params.inRam s.params.txCellAddr →
      (s.params.txWaitMode = .flag → s.txDone = true) →
      (s.params.txWaitMode = .enbit → s.tx.ccr.getLsbD 0 = false) →
      ∃ (t : Temps) (m : List Host.Cell),
        repeatOut (exec .mloop) 13 s = .next
          (({ s with
              tx :=
                { ccr := 0x00000013#32
                  ndt := 1#16
                  cpar := s.params.slBase + 0x28#32
                  cmar := s.params.txCellAddr
                  tcif := s.tx.tcif }
              mem := m
              rxComplete := false
              txDone := false } : State).mainAt .mloop .first t) ∧
        ({ s with mem := m } : State).byteAt s.params.txCellAddr = some b ∧
        ∀ x : Word, x ≠ s.params.txCellAddr →
          ({ s with mem := m } : State).byteAt x = s.byteAt x)

/-- R285: the HOST gives an idle `MAIN` its next word, at its first step and with fresh temporaries;
it gives nothing while `MAIN` runs.  What "fresh" temporaries hold (log entry 8) and a turn that
passes (log entry 5) are the model's. -/
def Obligations.HostGivesWord : Prop :=
  ∀ s : State, s.faultMark = none → s.refusedMark = none → s.nextTurn = .host →
    (∀ w rest, s.main = .idle → s.hostWords = w :: rest →
      step s = .next { s.afterTurn with
        main := .running w .first .fresh, hostWords := rest }) ∧
    (∀ w pos t, s.main = .running w pos t → step s = .next s.afterTurn) ∧
    (s.main = .idle → s.hostWords = [] → step s = .next s.afterTurn)

/-- R261 to R265: `H_DMA` tests the transmit completion first, then the receive completion, both in
every invocation.  Undisturbed, with only the transmit completion pending: the flag is cleared, the
transmit channel disabled, and, in the cooperative variant, `txDone` set.  With both pending the
transmit branch has run when `d5` is reached, and the receive completion has not been touched.  With
none pending it returns at the third micro-step.  The second test reads the flag afresh, whatever
the temporaries hold. -/
def Obligations.HandlerServesTransmit : Prop :=
  ∀ (s : State) (t : Temps), s.params.Wf →
    (s.hDma = .active .d1 t → s.tx.tcif = true → s.rx.tcif = false →
      repeatOut dmaRun (if s.params.echoPolicy = .cooperative then 7 else 6) s = .next { s with
        tx := { s.tx with ccr := s.tx.ccr &&& 0x3012#32, tcif := false }
        txDone := s.txDone || decide (s.params.echoPolicy = .cooperative)
        hDma := .inactive }) ∧
    (s.hDma = .active .d1 t → s.tx.tcif = true → s.rx.tcif = true →
      ∃ t' : Temps,
        repeatOut dmaRun (if s.params.echoPolicy = .cooperative then 5 else 4) s = .next { s with
          tx := { s.tx with ccr := s.tx.ccr &&& 0x3012#32, tcif := false }
          txDone := s.txDone || decide (s.params.echoPolicy = .cooperative)
          hDma := .active .d5 t' }) ∧
    (s.hDma = .active .d1 t → s.tx.tcif = false → s.rx.tcif = false →
      repeatOut dmaRun 3 s = .next { s with hDma := .inactive }) ∧
    (s.hDma = .active .d5 t →
      ∃ t' : Temps,
        dmaRun s = .next { s with hDma := .active (if s.rx.tcif then .d6 else .ret) t' })

/-- R262, R263, R266: `H_DMA` of the cooperative variant, undisturbed, with the receive completion
pending: the flag is cleared, `rxComplete` set and the receive channel armed again, whatever
`rxComplete` was; no byte of memory changes.  With the transmit completion pending too, the same
invocation has served it as well. -/
def Obligations.HandlerServesReceiveCooperative : Prop :=
  ∀ (s : State) (t : Temps), s.params.Wf → s.params.echoPolicy = .cooperative →
    s.hDma = .active .d1 t → s.rx.tcif = true →
    (s.tx.tcif = false →
      repeatOut dmaRun 12 s = .next { s with
        rx :=
          { ccr := 0x00000003#32
            ndt := 1#16
            cpar := s.params.slBase + 0x24#32
            cmar := s.params.rxCellAddr
            tcif := false }
        rxComplete := true
        hDma := .inactive }) ∧
    (s.tx.tcif = true →
      repeatOut dmaRun 16 s = .next { s with
        rx :=
          { ccr := 0x00000003#32
            ndt := 1#16
            cpar := s.params.slBase + 0x24#32
            cmar := s.params.rxCellAddr
            tcif := false }
        tx := { s.tx with ccr := s.tx.ccr &&& 0x3012#32, tcif := false }
        rxComplete := true
        txDone := true
        hDma := .inactive })

/-- R262, R263, R267: `H_DMA` of the autonomous variant, undisturbed, with the receive completion
pending: the received byte is copied to `txCell`, the transmit channel armed and the receive channel
armed again; no other byte of memory changes.  With the transmit completion pending too, it is served
first, in three micro-steps more, so that the transmit channel is armed at the end (90_conflicts.md
C3, program P8). -/
def Obligations.HandlerServesReceiveAutonomous : Prop :=
  ∀ (s : State) (t : Temps) (b : Byte), s.params.Wf → s.params.echoPolicy = .autonomous →
    s.hDma = .active .d1 t → s.rx.tcif = true →
    s.byteAt s.params.rxCellAddr = some b →
    ∃ m : List Host.Cell,
      repeatOut dmaRun (if s.tx.tcif then 23 else 20) s = .next { s with
        rx :=
          { ccr := 0x00000003#32
            ndt := 1#16
            cpar := s.params.slBase + 0x24#32
            cmar := s.params.rxCellAddr
            tcif := false }
        tx :=
          { ccr := 0x00000013#32
            ndt := 1#16
            cpar := s.params.slBase + 0x28#32
            cmar := s.params.txCellAddr
            tcif := false }
        mem := m
        hDma := .inactive } ∧
      ({ s with mem := m } : State).byteAt s.params.txCellAddr = some b ∧
      ∀ x : Word, x ≠ s.params.txCellAddr → ({ s with mem := m } : State).byteAt x = s.byteAt x

/-- R271, R272: `H_ERR`, undisturbed, clears every error flag it finds, touches nothing else, and
returns after at most nine micro-steps.  Each test reads its flag afresh, whatever the temporaries
hold, in the order `ORE`, `FE`, `NF`, `PE`, and each write clears only its own flag. -/
def Obligations.ErrorHandlerClears : Prop :=
  ∀ s : State,
    (∀ t, s.hErr = .active .e1 t →
      ∃ n : Nat, n ≤ 9 ∧ repeatOut errRun n s = .next { s with
        sl := { s.sl with pe := false, fe := false, nf := false, ore := false }
        hErr := .inactive }) ∧
    (∀ t, s.hErr = .active .e1 t → ∃ t' : Temps,
      errRun s = .next { s with hErr := .active (if s.sl.ore then .e2 else .e3) t' }) ∧
    (∀ t, s.hErr = .active .e2 t → ∃ t' : Temps,
      errRun s = .next { s with
        sl := { s.sl with ore := false }, hErr := .active .e3 t' }) ∧
    (∀ t, s.hErr = .active .e3 t → ∃ t' : Temps,
      errRun s = .next { s with hErr := .active (if s.sl.fe then .e4 else .e5) t' }) ∧
    (∀ t, s.hErr = .active .e4 t → ∃ t' : Temps,
      errRun s = .next { s with
        sl := { s.sl with fe := false }, hErr := .active .e5 t' }) ∧
    (∀ t, s.hErr = .active .e5 t → ∃ t' : Temps,
      errRun s = .next { s with hErr := .active (if s.sl.nf then .e6 else .e7) t' }) ∧
    (∀ t, s.hErr = .active .e6 t → ∃ t' : Temps,
      errRun s = .next { s with
        sl := { s.sl with nf := false }, hErr := .active .e7 t' }) ∧
    (∀ t, s.hErr = .active .e7 t → ∃ t' : Temps,
      errRun s = .next { s with hErr := .active (if s.sl.pe then .e8 else .ret) t' }) ∧
    (∀ t, s.hErr = .active .e8 t → ∃ t' : Temps,
      errRun s = .next { s with
        sl := { s.sl with pe := false }, hErr := .active .ret t' })

/-! ## Interrupts -/

/-- R330 to R333, R339: with `URGENT`, the order of the `CPU`'s steps, line by line of R332: entry of
`H_DMA`, a micro-step of `H_DMA`, entry of `H_ERR`, a micro-step of `H_ERR`, a micro-step of `MAIN`,
no step.  Entry starts the handler at its first step with fresh temporaries and changes nothing else;
of a micro-step a fault or a refusal is recorded in its mark.  What "fresh" temporaries hold (log
entry 8), a turn that passes (log entry 5) and `MAIN` decoding its word at each micro-step (log entry
4) are the model's. -/
def Obligations.InterruptEntry : Prop :=
  ∀ (s : State) (pick : CpuPick), s.faultMark = none → s.refusedMark = none →
    s.nextTurn = .cpu pick → s.params.irqSlack = .urgent →
    (s.irqDma = true → s.ienDma = true → s.hDma = .inactive →
      step s = .next { s.afterTurn with hDma := .active .d1 .fresh }) ∧
    (∀ pos t, s.hDma = .active pos t →
      step s = .next (record s.afterTurn (dmaStep pos t s.afterTurn))) ∧
    ((s.irqDma = false ∨ s.ienDma = false) → s.hDma = .inactive →
      s.sl.irqErr = true → s.ienErr = true → s.hErr = .inactive →
      step s = .next { s.afterTurn with hErr := .active .e1 .fresh }) ∧
    (∀ pos t, (s.irqDma = false ∨ s.ienDma = false) → s.hDma = .inactive →
      s.hErr = .active pos t →
      step s = .next (record s.afterTurn (errStep pos t s.afterTurn))) ∧
    (∀ w pos t i, (s.irqDma = false ∨ s.ienDma = false) → s.hDma = .inactive →
      (s.sl.irqErr = false ∨ s.ienErr = false) → s.hErr = .inactive →
      s.main = .running w pos t → decode s.params w = .ok i →
      step s = .next (record s.afterTurn (exec i s.afterTurn))) ∧
    ((s.irqDma = false ∨ s.ienDma = false) → s.hDma = .inactive →
      (s.sl.irqErr = false ∨ s.ienErr = false) → s.hErr = .inactive → s.main = .idle →
      step s = .next s.afterTurn)

/-- R337: the step `ret` makes the handler inactive and restores nothing.  With `LAX` and `IRQ_ERR` due
the clause of `H_DMA` is the model's reading (log entry 11): R332's exception names only that `H_ERR`
never steps while `H_DMA` is active, and the model takes its entry for such a step, and a pick that
is not enabled for `URGENT`'s step. -/
def Obligations.HandlerReturn : Prop :=
  ∀ (s : State) (t : Temps) (pick : CpuPick), s.faultMark = none → s.refusedMark = none →
    s.nextTurn = .cpu pick →
    (s.hDma = .active .ret t → step s = .next { s.afterTurn with hDma := .inactive }) ∧
    (s.hErr = .active .ret t → s.hDma = .inactive → s.params.irqSlack = .urgent →
      (s.irqDma = false ∨ s.ienDma = false) →
      step s = .next { s.afterTurn with hErr := .inactive })

/-- R334, R336: nothing preempts `H_DMA`, and a preempted context keeps its position and its
temporaries: a `CPU` step with `H_DMA` active leaves `H_ERR` and `MAIN` as they are, and one with
`H_ERR` active leaves `MAIN` as it is.  With `URGENT` this is R332's order; the `LAX` half of the first
clause, that `H_ERR` is not even entered while `H_DMA` is active, is the model's reading of R332 and
R334 (log entry 11). -/
def Obligations.PreemptedContextsKeepState : Prop :=
  ∀ (s s' : State) (pick : CpuPick), s.nextTurn = .cpu pick → step s = .next s' →
    (s.hDma ≠ .inactive → s'.hErr = s.hErr ∧ s'.main = s.main ∧ s'.results = s.results) ∧
    (s.hErr ≠ .inactive → s'.main = s.main ∧ s'.results = s.results)

/-! ## Rules of the whole machine -/

/-- The invariant of the machine is kept by every step: memory in its canonical form and inside RAM
(R40), reserved bits 0 (R21, R30, R31), an enabled channel bound to its cell and data register with
a count of 0 or 1 (R136, R138, R171), at most one mark (R321, R322), the positions and the flags of
the variant that is built (R45, R260). -/
def Obligations.EveryStepKeepsInvariant : Prop :=
  ∀ s s' : State, Inv s → step s = .next s' → Inv s'

/-- The invariant holds after reset, for all launch parameters in their ranges and every frame list
(those of `State.reset` itself: log entry 2). -/
def Obligations.ResetHasInvariant : Prop :=
  Inv State.reset ∧ ∀ (p : Params) (frames : List Frame), p.Wf → Inv (State.resetWith p frames)

/-- R171, R173: under the invariant exactly one of Disabled, Armed and Exhausted holds of each
channel. -/
def Obligations.ExactlyOneChannelState : Prop :=
  ∀ (s : State) (c : Role), Inv s →
    ((s.chan c).disabled = true ∧ (s.chan c).armed = false ∧ (s.chan c).exhausted = false) ∨
    ((s.chan c).disabled = false ∧ (s.chan c).armed = true ∧ (s.chan c).exhausted = false) ∨
    ((s.chan c).disabled = false ∧ (s.chan c).armed = false ∧ (s.chan c).exhausted = true)

/-- R46, R329, R384: the launch parameters never change and nothing clears an interrupt enable. -/
def Obligations.EnablesAndParametersPersist : Prop :=
  ∀ s s' : State, step s = .next s' →
    s'.params = s.params ∧ (s.ienDma = true → s'.ienDma = true) ∧
    (s.ienErr = true → s'.ienErr = true)

/-- R55, R228, R230: a frame leaves the wire only by a step of `SLRX`, and a byte joins the line only
by a step `EMIT`, which needs `UE`, `TE` and `TXE = 0` and sends the byte of `SL_TDR`. -/
def Obligations.WiresMoveByTheirOwnSteps : Prop :=
  ∀ s s' : State, step s = .next s' →
    (s'.rxWire = s.rxWire ∨
      s.nextTurn = .slrx ∧ ∃ f, s.rxWire = f :: s'.rxWire) ∧
    (s'.txLine = s.txLine ∨
      s.nextTurn = .sltx ∧ s.sl.cr1.getLsbD 0 = true ∧ s.sl.cr1.getLsbD 3 = true ∧
      s.sl.txe = false ∧ s'.txLine = s.txLine ++ [s.sl.tdr])

/-- R86, R290: under the invariant, and while `MAIN` does not run a `WR8_MEM`, no step changes a byte
of memory other than the two cells. -/
def Obligations.OnlyCellsAreWritten : Prop :=
  ∀ s s' : State, Inv s → step s = .next s' →
    (∀ w pos t a b, s.main = .running w pos t → decode s.params w ≠ .ok (.wr8Mem a b)) →
    ∀ x : Word, x ≠ s.params.rxCellAddr → x ≠ s.params.txCellAddr → s'.byteAt x = s.byteAt x

/-- R57, R220, R232: an error flag that is set is cleared only by a `CPU` step: no arrival, transfer,
emission or command of the HOST clears one. -/
def Obligations.OnlyTheCpuClearsErrorFlags : Prop :=
  ∀ s s' : State, step s = .next s' → (∀ pick, s.nextTurn ≠ .cpu pick) →
    (s.sl.ore = true → s'.sl.ore = true) ∧ (s.sl.fe = true → s'.sl.fe = true) ∧
    (s.sl.nf = true → s'.sl.nf = true) ∧ (s.sl.pe = true → s'.sl.pe = true)

/-- R362: with the line off, both interrupts disabled and no command, no step does anything but lose
an arriving frame without a flag. -/
def Obligations.NothingBeforeConfiguration : Prop :=
  ∀ s s' : State, s.sl.cr1.getLsbD 0 = false → s.ienDma = false → s.ienErr = false →
    s.hDma = .inactive → s.hErr = .inactive → s.main = .idle → s.hostWords = [] →
    step s = .next s' →
    s' = { s.afterTurn with rxWire := s'.rxWire } ∧
    (s'.rxWire = s.rxWire ∨ ∃ f, s.rxWire = f :: s'.rxWire)

/-- R360: reset.  The values of the table, for all launch parameters and every frame list; the two
data registers and the temporaries, which the table leaves unspecified, are not stated. -/
def Obligations.ResetValues : Prop :=
  ∀ (p : Params) (frames : List Frame),
    (∀ c, ((State.resetWith p frames).chan c).ccr = 0#32 ∧
      ((State.resetWith p frames).chan c).ndt = 0#16 ∧
      ((State.resetWith p frames).chan c).cpar = 0#32 ∧
      ((State.resetWith p frames).chan c).cmar = 0#32 ∧
      ((State.resetWith p frames).chan c).tcif = false) ∧
    (State.resetWith p frames).dmaIsr = 0#32 ∧
    (State.resetWith p frames).sl.cr1 = 0#32 ∧ (State.resetWith p frames).sl.cr3 = 0#32 ∧
    (State.resetWith p frames).sl.div = 0#16 ∧
    (State.resetWith p frames).sl.isr = 0x00000080#32 ∧
    (∀ a, (State.resetWith p frames).byteAt a = none) ∧
    (State.resetWith p frames).rxComplete = false ∧ (State.resetWith p frames).txDone = true ∧
    (State.resetWith p frames).ienDma = false ∧ (State.resetWith p frames).ienErr = false ∧
    (State.resetWith p frames).hDma = .inactive ∧ (State.resetWith p frames).hErr = .inactive ∧
    (State.resetWith p frames).main = .idle ∧ (State.resetWith p frames).txLine = [] ∧
    (State.resetWith p frames).rxWire = frames ∧
    (State.resetWith p frames).faultMark = none ∧ (State.resetWith p frames).refusedMark = none

/-- The echo property of the autonomous variant, along the schedule in which every agent steps when
it has something to do (95_test_vectors.md S1, R374): for every byte, from every state that is
configured and at rest, a frame that arrives is received, handed over, armed and sent: after 32 turns
exactly its byte has been added to the line, both cells hold it and every other byte of memory is as
it was, the receive channel is armed again, the transmit channel is disabled, and the machine is at
rest.  The schedule is the model's (log entry 5). -/
def Obligations.AutonomousEcho : Prop :=
  ∀ (s : State) (b : Byte) (rest : List Frame) (turns : List Turn) (pick : CpuPick),
    Inv s → s.params.echoPolicy = .autonomous → s.params.irqSlack = .urgent →
    s.faultMark = none → s.refusedMark = none →
    s.rxWire = ⟨b, false, false, false⟩ :: rest →
    s.sched = [.slrx, .ch .rx] ++ List.replicate 21 (.cpu pick) ++ [.ch .tx] ++
      List.replicate 7 (.cpu pick) ++ [.sltx] ++ turns →
    s.sl.cr1 = 0x0000010D#32 → s.sl.cr3 = 0x000000C1#32 →
    s.sl.ore = false → s.sl.fe = false → s.sl.nf = false → s.sl.pe = false →
    s.sl.rxne = false → s.sl.txe = true →
    s.ienDma = true → s.hDma = .inactive → s.hErr = .inactive →
    s.rx.ccr = 0x00000003#32 → s.rx.ndt = 1#16 → s.rx.tcif = false →
    s.tx.ccr.getLsbD 0 = false → s.tx.tcif = false →
    ∃ m : List Host.Cell,
      repeatOut step 32 s = .next { s with
        sl := { s.sl with rdr := b, tdr := b }
        tx :=
          { ccr := 0x00000012#32
            ndt := 0#16
            cpar := s.params.slBase + 0x28#32
            cmar := s.params.txCellAddr
            tcif := false }
        mem := m
        rxWire := rest
        txLine := s.txLine ++ [b]
        sched := turns } ∧
      ({ s with mem := m } : State).byteAt s.params.rxCellAddr = some b ∧
      ({ s with mem := m } : State).byteAt s.params.txCellAddr = some b ∧
      ∀ x : Word, x ≠ s.params.rxCellAddr → x ≠ s.params.txCellAddr →
        ({ s with mem := m } : State).byteAt x = s.byteAt x
end

