-- ==== Sys2Proof/Laws/Fairness.lean ====
section
/-!
SUPPORT. Lemmas about weak fairness (spec/70_reset_and_hazards.md R381): the schedule that gives every
agent its turn in rotation is weakly fair on every run, and what fairness is for: on a weakly fair
run a byte that waits in `SL_TDR` with the transmitter on does not wait for ever.
-/

namespace Sys2Proof.Machine

/-- Every agent in rotation. -/
def roundRobin (n : Nat) : Turn :=
  match n % 6 with
  | 0 => .ch .rx
  | 1 => .ch .tx
  | 2 => .slrx
  | 3 => .sltx
  | 4 => .cpu .runMain
  | _ => .host

/-- The place of an agent in the rotation. -/
def Agent.place : Agent → Nat
  | .ch .rx => 0
  | .ch .tx => 1
  | .slrx => 2
  | .sltx => 3
  | .cpu => 4
  | .host => 5

theorem agentOf_roundRobin (a : Agent) (n : Nat) : agentOf (roundRobin (6 * n + a.place)) = a := by
  have h : (6 * n + a.place) % 6 = a.place := by
    have : a.place < 6 := by rcases a with (_ | _) | _ | _ | _ | _ <;> decide
    omega
  unfold roundRobin
  rw [h]
  rcases a with (_ | _) | _ | _ | _ | _ <;> rfl

/-- The rotation is weakly fair, whatever the run. -/
theorem weaklyFair_roundRobin (run : Nat → State) : WeaklyFair roundRobin run :=
  fun a _ n _ => ⟨6 * n + a.place, by omega, agentOf_roundRobin a n⟩

/-- Everything a turn on an unmarked state can do. -/
theorem advance_of_unmarked {s : State} (turn : Turn) (hf : s.faultMark = none)
    (hr : s.refusedMark = none) :
    s.advance turn = record { s with sched := [] } (agentStep turn { s with sched := [] }) := by
  have h : step { s with sched := [turn] } = _ :=
    step_of_unmarked (s := { s with sched := [turn] }) hf hr
  unfold State.advance State.onward
  rw [h]
  rfl

/-- The turn of the transmitter, where its step is enabled, leaves `TXE = 1` (R230). -/
theorem advance_sltx_txe {s : State} (h : s.hasStep .sltx = true) :
    (s.advance .sltx).sl.txe = true := by
  simp only [State.hasStep, State.badEnd, Bool.and_eq_true, Bool.not_eq_true', Bool.or_eq_false_iff,
    Option.isSome_eq_false_iff, Option.isNone_iff_eq_none] at h
  obtain ⟨⟨hf, hr⟩, ⟨hu, ht⟩, hx⟩ := h
  rw [advance_of_unmarked _ hf hr]
  show (emitStep _).sl.txe = true
  rw [emitStep, if_pos ⟨hu, ht, hx⟩]

/-- On a weakly fair run the transmitter's step does not stay enabled for ever. -/
theorem weaklyFair_emits (turns : Nat → Turn) (s : State) (hf : WeaklyFair turns (runOn turns s))
    (n : Nat) : ∃ m, n ≤ m ∧ (runOn turns s m).hasStep .sltx = false := by
  by_contra hc
  have hs : ∀ m, n ≤ m → (runOn turns s m).hasStep .sltx = true := by
    intro m hm
    cases hb : (runOn turns s m).hasStep .sltx
    · exact absurd ⟨m, hm, hb⟩ hc
    · rfl
  obtain ⟨m, hm, ht⟩ := hf .sltx rfl n hs
  have h1 := hs (m + 1) (by omega)
  have hT : turns m = .sltx := by
    revert ht; cases turns m <;> simp [agentOf]
  simp only [runOn, hT, State.hasStep, advance_sltx_txe (hs m hm)] at h1
  simp at h1

end Sys2Proof.Machine
end

