-- ==== Sys2Proof/Laws/Spacing.lean ====
section
/-!
SUPPORT. Why the spacing of input is defined as it is (spec/70_reset_and_hazards.md R374): along a
spaced run no overrun occurs.
-/

namespace Sys2Proof.Machine

/-! ## Only `SLRX` fills the receiver -/

/-- `RXNE` and `ORE` do not rise. -/
def Quiet (l l' : Serial) : Prop :=
  (l'.rxne = true → l.rxne = true) ∧ (l'.ore = true → l.ore = true)

theorem Quiet.refl (l : Serial) : Quiet l l := ⟨id, id⟩

theorem Quiet.of_eq {l l' : Serial} (h : l' = l) : Quiet l l' := h ▸ Quiet.refl l

theorem clearFlags_quiet (l : Serial) (w : Word) : Quiet l (l.clearFlags w) :=
  ⟨id, fun h => (Bool.and_eq_true_iff.1 h).1⟩

theorem endWrite_quiet {o : Out State} {s t : State} (h : endWrite o = .next t)
    (ho : ∀ s', o = .next s' → Quiet s.sl s'.sl) : Quiet s.sl t.sl := by
  obtain ⟨s', h1, rfl⟩ := endWrite_next h
  exact ho s' h1

theorem mainStep_quiet {κ : Type} {i : Instr} {wrap : κ → MainPos} {result : Temps → Result}
    {run : Temps → State → Micro κ} {s t : State} (h : mainStep i wrap result run s = .next t)
    (hr : ∀ k x s', run s.mainTemps s = .next (k, x, s') → Quiet s.sl s'.sl) : Quiet s.sl t.sl := by
  obtain ⟨k, x, s', h1, rfl⟩ := mainStep_next h
  cases k <;> simpa using hr _ _ _ h1

theorem dmaSeq_quiet {κ : Type} {wrap : κ → DmaPos} {done : DmaPos} {m : Micro κ} {s t : State}
    (h : dmaSeq wrap done m = .next t) (hr : ∀ k x s', m = .next (k, x, s') → Quiet s.sl s'.sl) :
    Quiet s.sl t.sl := by
  obtain ⟨k, x, s', h1, rfl⟩ := dmaSeq_next h
  cases k <;> exact hr _ _ s' h1

theorem wrCcr_quiet {c : Role} {w : Word} {s t : State} (h : wrCcr c w s = .next t) :
    Quiet s.sl t.sl := by
  obtain ⟨-, -, -, rfl⟩ := wrCcr_next h
  exact .of_eq (by simp)

theorem whileDisabled_quiet {c : Role} {r : ChanReg} {x : Chan} {s t : State}
    (h : whileDisabled c r x s = .next t) : Quiet s.sl t.sl := by
  obtain ⟨-, rfl⟩ := whileDisabled_next h
  exact .of_eq (by simp)

theorem wrCndtr_quiet {c : Role} {w : Word} {s t : State} (h : wrCndtr c w s = .next t) :
    Quiet s.sl t.sl := by
  obtain ⟨-, -, rfl⟩ := wrCndtr_next h
  exact .of_eq (by simp)

theorem wrSlCr1_quiet {w : Word} {s t : State} (h : wrSlCr1 w s = .next t) : Quiet s.sl t.sl := by
  obtain ⟨-, rfl⟩ := wrSlCr1_next h
  exact .refl _

theorem wrSlCr3_quiet {w : Word} {s t : State} (h : wrSlCr3 w s = .next t) : Quiet s.sl t.sl := by
  obtain ⟨-, rfl⟩ := wrSlCr3_next h
  exact .refl _

theorem wrSlBrr_quiet {w : Word} {s t : State} (h : wrSlBrr w s = .next t) : Quiet s.sl t.sl := by
  obtain ⟨-, rfl⟩ := wrSlBrr_next h
  exact .refl _

theorem wrSlTdr32_quiet {w : Word} {s t : State} (h : wrSlTdr32 w s = .next t) :
    Quiet s.sl t.sl := by
  obtain ⟨-, rfl⟩ := wrSlTdr32_next h
  exact .refl _

theorem memWrite8_quiet {a : Word} {b : Byte} {s t : State} (h : memWrite8 a b s = .next t) :
    Quiet s.sl t.sl := by
  obtain ⟨-, rfl⟩ := memWrite8_next h
  exact .refl _

theorem armStep_quiet {c : Role} {a : ArmStep} {t x : Temps} {k : Option ArmStep} {s s' : State}
    (h : armStep c a t s = .next (k, x, s')) : Quiet s.sl s'.sl := by
  cases a
  case a1 => cases h; exact .refl _
  all_goals
    obtain ⟨u, h1, h2⟩ := andThen_next (h : andThen _ _ = _)
    cases h2
    first
      | exact wrCcr_quiet h1
      | exact whileDisabled_quiet h1

theorem disarmStep_quiet {c : Role} {q : DisarmStep} {t x : Temps} {k : Option DisarmStep}
    {s s' : State} (h : disarmStep c q t s = .next (k, x, s')) : Quiet s.sl s'.sl := by
  cases q
  · cases h; exact .refl _
  · obtain ⟨u, h1, h2⟩ := andThen_next (h : andThen _ _ = _)
    cases h2
    exact wrCcr_quiet h1

theorem cfgStep_quiet {baud : Word} {c : CfgStep} {t x : Temps} {k : Option CfgStep} {s s' : State}
    (h : cfgStep baud c t s = .next (k, x, s')) : Quiet s.sl s'.sl := by
  cases c
  case c0 =>
    unfold cfgStep at h
    dsimp only at h
    split at h
    · cases h
    · split at h
      · cases h
      · cases h; exact .refl _
  case c5 => cases h; exact .refl _
  case c7 => cases h; exact .refl _
  case c9 => cases h; exact .refl _
  all_goals
    obtain ⟨u, h1, h2⟩ := andThen_next (by simpa only [cfgStep] using h)
    cases h2
    first
      | exact wrSlCr1_quiet h1
      | exact wrSlCr3_quiet h1
      | exact wrSlBrr_quiet h1

theorem readStep_quiet {m : ReadStep} {t x : Temps} {k : Option ReadStep} {s s' : State}
    (h : readStep m t s = .next (k, x, s')) : Quiet s.sl s'.sl := by
  cases m
  · obtain ⟨u, -, h2⟩ := andThen_next (h : andThen _ _ = _)
    cases h2
    exact .refl _
  · cases h; exact .refl _

theorem stxStep_quiet {b : Byte} {p : StxStep} {t x : Temps} {k : Option StxStep} {s s' : State}
    (h : stxStep b p t s = .next (k, x, s')) : Quiet s.sl s'.sl := by
  cases p with
  | w1 =>
    unfold stxStep at h
    dsimp only at h
    split at h <;> (cases h; exact .refl _)
  | w2 => cases h; exact .refl _
  | w3 =>
    obtain ⟨u, h1, h2⟩ := andThen_next (h : andThen _ _ = _)
    cases h2
    exact memWrite8_quiet h1
  | w4 a =>
    obtain ⟨⟨k', x', u⟩, h1, h2⟩ := andThen_next (h : andThen _ _ = _)
    cases h2
    exact armStep_quiet h1

theorem cooperativeOnly_next {s t : State} {o : Out State} (h : cooperativeOnly s o = .next t) :
    o = .next t := by
  unfold cooperativeOnly at h
  split at h
  · cases h
  · exact h

theorem execArmTx_quiet {b : Byte} {s t : State} (h : execArmTx b s = .next t) :
    Quiet s.sl t.sl := by
  unfold execArmTx at h
  split at h
  · exact mainStep_quiet h fun _ _ _ => armStep_quiet
  · obtain ⟨u, h1, h2⟩ := andThen_next h
    cases h2
    simpa using memWrite8_quiet h1

theorem execInit_quiet {baud : Word} {s t : State} (h : execInit baud s = .next t) :
    Quiet s.sl t.sl := by
  unfold execInit at h
  split at h
  · cases h; exact .of_eq (by simp)
  · exact mainStep_quiet h fun _ _ _ => armStep_quiet
  · obtain ⟨⟨k, x, u⟩, h1, h2⟩ := andThen_next h
    cases k <;> (cases h2; simpa using cfgStep_quiet h1)

theorem execMloop_quiet {s t : State} (h : execMloop s = .next t) : Quiet s.sl t.sl := by
  have h := cooperativeOnly_next h
  split at h
  · obtain ⟨⟨k, x, u⟩, h1, h2⟩ := andThen_next h
    cases k <;> (cases h2; simpa using readStep_quiet h1)
  · obtain ⟨⟨k, x, u⟩, h1, h2⟩ := andThen_next h
    cases k <;> (cases h2; simpa using stxStep_quiet h1)
  · cases h; exact .of_eq (by simp)

/-- No instruction raises `RXNE` or `ORE`. -/
theorem exec_quiet {i : Instr} {s t : State} (h : exec i s = .next t) : Quiet s.sl t.sl := by
  cases i
  case wrCcrRx | wrCcrTx => exact endWrite_quiet h fun _ => wrCcr_quiet
  case wrCndtrRx | wrCndtrTx => exact endWrite_quiet h fun _ => wrCndtr_quiet
  case wrCparRx | wrCparTx | wrCmarRx | wrCmarTx =>
    exact endWrite_quiet h fun _ => whileDisabled_quiet
  case wrSlCr1 => exact endWrite_quiet h fun _ => wrSlCr1_quiet
  case wrSlCr3 => exact endWrite_quiet h fun _ => wrSlCr3_quiet
  case wrSlBrr => exact endWrite_quiet h fun _ => wrSlBrr_quiet
  case wrSlTdr32 => exact endWrite_quiet h fun _ => wrSlTdr32_quiet
  case wr8Mem => exact endWrite_quiet h fun _ => memWrite8_quiet
  case wrSlIcr => cases h; exact clearFlags_quiet _ _
  case rdSlRdr32 | rdSlRdr8 => cases h; exact ⟨fun hx => Bool.noConfusion hx, id⟩
  case rd8Mem =>
    obtain ⟨b, -, h2⟩ := andThen_next (h : andThen _ _ = _)
    cases h2; exact .refl _
  case cfgLine =>
    simp only [exec, execCfgLine] at h
    exact mainStep_quiet h fun _ _ _ => cfgStep_quiet
  case init => exact execInit_quiet h
  case armRx =>
    simp only [exec, execArmRx] at h
    exact mainStep_quiet h fun _ _ _ => armStep_quiet
  case armTx => exact execArmTx_quiet h
  case disarmRx | disarmTx =>
    simp only [exec, execDisarmRx, execDisarmTx] at h
    exact mainStep_quiet h fun _ _ _ => disarmStep_quiet
  case davail => cases cooperativeOnly_next h; exact .refl _
  case read => exact mainStep_quiet (cooperativeOnly_next h) fun _ _ _ => readStep_quiet
  case stx => exact mainStep_quiet (cooperativeOnly_next h) fun _ _ _ => stxStep_quiet
  case mloop => exact execMloop_quiet h
  all_goals cases h; exact ⟨id, id⟩

/-- No micro-step of `H_DMA` raises them. -/
theorem dmaStep_quiet {pos : DmaPos} {x : Temps} {s t : State} (h : dmaStep pos x s = .next t) :
    Quiet s.sl t.sl := by
  cases pos
  case d4 => exact dmaSeq_quiet h fun _ _ _ => disarmStep_quiet
  case coop8 | auto9 | auto10 => exact dmaSeq_quiet h fun _ _ _ => armStep_quiet
  case auto7 =>
    obtain ⟨b, -, h2⟩ := andThen_next (h : andThen _ _ = _)
    cases h2; exact .refl _
  case auto8 =>
    obtain ⟨u, h1, h2⟩ := andThen_next (h : andThen _ _ = _)
    cases h2; exact memWrite8_quiet (t := u) h1
  all_goals cases h; exact .refl _

/-- No micro-step of `H_ERR` raises them. -/
theorem errStep_quiet {pos : ErrPos} {x : Temps} {s t : State} (h : errStep pos x s = .next t) :
    Quiet s.sl t.sl := by
  cases pos
  case e2 | e4 | e6 | e8 => cases h; exact clearFlags_quiet _ _
  all_goals cases h; exact .refl _

/-- No agent but `SLRX` raises them. -/
theorem agentStep_quiet {turn : Turn} {s t : State} (hn : turn ≠ .slrx)
    (h : agentStep turn s = .next t) : Quiet s.sl t.sl := by
  cases turn with
  | slrx => exact absurd rfl hn
  | ch c =>
    simp only [agentStep] at h
    split at h
    · obtain ⟨-, -, rfl⟩ | ⟨-, -, b, -, rfl⟩ := xfer_next h
      · exact ⟨fun hx => Bool.noConfusion hx, id⟩
      · exact ⟨id, id⟩
    · cases h; exact .refl _
  | sltx =>
    cases h
    unfold emitStep
    split <;> exact ⟨id, id⟩
  | host =>
    cases h
    unfold hostStep
    split <;> exact .refl _
  | cpu pick =>
    simp only [agentStep, cpuStep] at h
    split at h
    · cases h; exact .refl _
    · unfold dmaRun at h
      split at h
      · cases h; exact .refl _
      · exact dmaStep_quiet h
    · cases h; exact .refl _
    · unfold errRun at h
      split at h
      · cases h; exact .refl _
      · exact errStep_quiet h
    · unfold mainRun at h
      split at h
      · cases h; exact .refl _
      · split at h
        · exact exec_quiet h
        · cases h
    · cases h; exact .refl _

/-! ## The observer -/

/-- A step in which no frame leaves the wire raises neither. -/
theorem step_quiet {s t : State} (h : step s = .next t) (hg : frameGone s t = false) :
    Quiet s.sl t.sl := by
  obtain ⟨-, -, rfl⟩ := step_next h
  by_cases hn : s.nextTurn = .slrx
  · rw [hn] at hg ⊢
    cases hw : s.rxWire with
    | nil => exact .of_eq (by simp [record, agentStep, slrxStep, hw])
    | cons f rest => simp [frameGone, record, agentStep, slrxStep, hw] at hg
  · cases ho : agentStep s.nextTurn s.afterTurn with
    | next u => simpa [record] using agentStep_quiet hn ho
    | fault r => exact .of_eq (by simp [record])
    | refused r => exact .of_eq (by simp [record])

/-- An arrival at an empty receiver is no overrun (R228). -/
theorem receive_ore {b : Bool} {f : Frame} {l : Serial} (he : l.rxne = false) :
    (l.receive b f).ore = l.ore := by
  unfold Serial.receive
  split
  · rfl
  · split
    · rfl
    · split
      · rfl
      · simp [he]

/-- A step from an empty receiver sets no overrun. -/
theorem step_ore {s t : State} (h : step s = .next t) (he : s.sl.rxne = false) :
    t.sl.ore = true → s.sl.ore = true := by
  obtain ⟨-, -, rfl⟩ := step_next h
  by_cases hn : s.nextTurn = .slrx
  · rw [hn]
    cases hw : s.rxWire with
    | nil => simp [record, agentStep, slrxStep, hw]
    | cons f rest => simp [record, agentStep, slrxStep, hw, receive_ore he]
  · cases ho : agentStep s.nextTurn s.afterTurn with
    | next u => simpa [record] using (agentStep_quiet hn ho).2
    | fault r => simp [record]
    | refused r => simp [record]

/-- A channel that is granted has one transfer to do (R175, R176). -/
theorem granted_ndt {c : Role} {s : State} (h : s.granted c = true) : (s.chan c).ndt = 1#16 := by
  simp only [State.granted, State.ready, Chan.armed, Bool.and_eq_true, beq_iff_eq] at h
  exact h.1.1.2

theorem granted_afterTurn (c : Role) (s : State) : s.afterTurn.granted c = s.granted c := by
  unfold State.afterTurn
  split <;> rfl

/-- A transfer of the receive channel empties the receiver (R178, R222). -/
theorem transferred_rx {s t : State} (h : step s = .next t) (ht : transferred .rx s t = true) :
    t.sl.rxne = false := by
  obtain ⟨-, -, rfl⟩ := step_next h
  simp only [transferred, Bool.and_eq_true, decide_eq_true_eq, beq_iff_eq] at ht
  obtain ⟨⟨hn, hg⟩, hz⟩ := ht
  have hone : s.rx.ndt = 1#16 := granted_ndt hg
  rw [hn] at hz ⊢
  cases ho : agentStep (.ch .rx) s.afterTurn with
  | next u =>
    rw [agentStep, if_pos (by rw [granted_afterTurn]; exact hg)] at ho
    obtain ⟨-, -, rfl⟩ | ⟨hx, -⟩ := xfer_next ho
    · rfl
    · cases hx
  | fault r => simp [ho, record, State.chan, hone] at hz
  | refused r => simp [ho, record, State.chan, hone] at hz

/-- While a byte waits in `SL_RDR` its echo is pending. -/
def Echo.covers (e : Echo) (s : State) : Prop :=
  s.sl.rxne = true → ∃ data, e = .pending data .received

/-- Every step keeps that along a spaced run. -/
theorem covers_after {e : Echo} {s t : State} (h : step s = .next t) (hc : e.covers s)
    (hs : frameGone s t = false ∨ e = .idle) : (e.after s t).covers t := by
  intro ht
  cases hg : frameGone s t with
  | false =>
    obtain ⟨d, rfl⟩ := hc ((step_quiet h hg).1 ht)
    refine ⟨d, ?_⟩
    have hx : transferred .rx s t = false := by
      cases hb : transferred .rx s t
      · rfl
      · rw [transferred_rx h hb] at ht; cases ht
    simp [Echo.after, hg, Echo.goesOn, EchoStage.next, hx]
  | true =>
    rw [hg] at hs
    obtain rfl : e = .idle := by simpa using hs
    have he : s.sl.rxne = false := by
      cases hb : s.sl.rxne
      · rfl
      · obtain ⟨d, hd⟩ := hc hb; cases hd
    cases hw : s.rxWire with
    | nil => simp [frameGone, hw] at hg
    | cons f rest => exact ⟨f.data, by simp [Echo.after, hg, hw, he, ht]⟩

/-- `run` is a run: each state is a step after the one before it. -/
def IsRun : List State → Prop
  | s :: t :: rest => step s = .next t ∧ IsRun (t :: rest)
  | _ => True

/-- R374: along a spaced run no overrun occurs. -/
theorem spaced_no_overrun {e : Echo} {s : State} {rest : List State} (hr : IsRun (s :: rest))
    (hs : spaced e (s :: rest) = true) (hc : e.covers s) (ho : s.sl.ore = false) :
    ∀ t ∈ s :: rest, t.sl.ore = false := by
  induction rest generalizing e s with
  | nil => simpa using ho
  | cons t rest ih =>
    obtain ⟨h, hr⟩ := hr
    simp only [spaced, Bool.and_eq_true, Bool.or_eq_true, Bool.not_eq_true', decide_eq_true_eq] at hs
    have ho' : t.sl.ore = false := by
      rw [← Bool.not_eq_true] at ho ⊢
      intro hx
      rcases hs.1 with hg | rfl
      · exact ho ((step_quiet h hg).2 hx)
      · cases hb : s.sl.rxne
        · exact ho (step_ore h hb hx)
        · obtain ⟨d, hd⟩ := hc hb; cases hd
    exact List.forall_mem_cons.2 ⟨ho, ih hr hs.2 (covers_after h hc hs.1) ho'⟩

end Sys2Proof.Machine
end

