-- ==== Sys2Proof/Tests/Slice0.lean ====
section
/-!
SUPPORT. Tests: the smoke test of the well-formedness checks, every row of the opcode table decoded
from a word written out from spec/30_encoding.md R107 and R108, the refusals of the decoder, single
steps from the vectors of spec/95_test_vectors.md, and for every statement with hypotheses a witness
that meets them.
-/

namespace Sys2Proof.Tests

open Sys2Proof.Machine

/-! ## Well-formedness -/

/-- R107: the address of a memory access lies in RAM; one before, one after, both ends. -/
theorem test_rd8Mem_outside_ram_is_ill_formed :
    (Instr.rd8Mem 0x1FFFFFFF#32).wellFormed .standard = false ∧
    (Instr.rd8Mem 0x20004000#32).wellFormed .standard = false ∧
    (Instr.rd8Mem 0x20000000#32).wellFormed .standard = true ∧
    (Instr.rd8Mem 0x20003FFF#32).wellFormed .standard = true := by decide

/-- The same of a write. -/
theorem test_wr8Mem_outside_ram_is_ill_formed :
    (Instr.wr8Mem 0x1FFFFFFF#32 0#8).wellFormed .standard = false ∧
    (Instr.wr8Mem 0x20004000#32 0#8).wellFormed .standard = false ∧
    (Instr.wr8Mem 0x20003FFF#32 0#8).wellFormed .standard = true := by decide

/-! ## Decoding, every row of the table -/

/-- `w` decodes to `i`, and `i` is written as `w`. -/
def isWordOf (w : Nat) (i : Instr) : Bool :=
  decide (decodeTableWord 72 w = some i) && encode .standard i == BitVec.ofNat 72 w

/-- R107: the four shared operations, `DMA_BASE` = 0x40020000. -/
theorem test_decode_dma_shared :
    (isWordOf 0x024002000000000000 .rdDmaIsr &&
    isWordOf 0x824002000012345678 (.wrDmaIsr 0x12345678#32) &&
    isWordOf 0x024002000400000000 .rdDmaIfcr &&
    isWordOf 0x824002000400000200 (.wrDmaIfcr 0x200#32)) = true := by decide

/-- R107: the receive channel, number 3, at offsets 0x30 to 0x3C. -/
theorem test_decode_dma_rx :
    (isWordOf 0x024002003000000000 .rdCcrRx &&
    isWordOf 0x824002003000000003 (.wrCcrRx 3#32) &&
    isWordOf 0x024002003400000000 .rdCndtrRx &&
    isWordOf 0x824002003400000001 (.wrCndtrRx 1#32) &&
    isWordOf 0x024002003800000000 .rdCparRx &&
    isWordOf 0x824002003840013824 (.wrCparRx 0x40013824#32) &&
    isWordOf 0x024002003C00000000 .rdCmarRx &&
    isWordOf 0x824002003C20000000 (.wrCmarRx 0x20000000#32)) = true := by decide

/-- R107: the transmit channel, number 2, at offsets 0x1C to 0x28. -/
theorem test_decode_dma_tx :
    (isWordOf 0x024002001C00000000 .rdCcrTx &&
    isWordOf 0x824002001C00000013 (.wrCcrTx 0x13#32) &&
    isWordOf 0x024002002000000000 .rdCndtrTx &&
    isWordOf 0x824002002000000001 (.wrCndtrTx 1#32) &&
    isWordOf 0x024002002400000000 .rdCparTx &&
    isWordOf 0x824002002440013828 (.wrCparTx 0x40013828#32) &&
    isWordOf 0x024002002800000000 .rdCmarTx &&
    isWordOf 0x824002002820000004 (.wrCmarTx 0x20000004#32)) = true := by decide

/-- R107: the control and status registers of the serial line, `SL_BASE` = 0x40013800. -/
theorem test_decode_line_control :
    (isWordOf 0x024001380000000000 .rdSlCr1 &&
    isWordOf 0x82400138000000010D (.wrSlCr1 0x10D#32) &&
    isWordOf 0x024001380800000000 .rdSlCr3 &&
    isWordOf 0x8240013808000000C1 (.wrSlCr3 0xC1#32) &&
    isWordOf 0x024001380C00000000 .rdSlBrr &&
    isWordOf 0x824001380C00000045 (.wrSlBrr 0x45#32) &&
    isWordOf 0x024001381C00000000 .rdSlIsr &&
    isWordOf 0x824001381CFFFFFFFF (.wrSlIsr 0xFFFFFFFF#32) &&
    isWordOf 0x024001382000000000 .rdSlIcr &&
    isWordOf 0x824001382000000008 (.wrSlIcr 8#32)) = true := by decide

/-- R107: the two data registers, in both widths. -/
theorem test_decode_line_data :
    (isWordOf 0x024001382400000000 .rdSlRdr32 &&
    isWordOf 0x004001382400000000 .rdSlRdr8 &&
    isWordOf 0x824001382487654321 (.wrSlRdr32 0x87654321#32) &&
    isWordOf 0x8040013824000000A5 (.wrSlRdr8 0xA5#8) &&
    isWordOf 0x024001382800000000 .rdSlTdr32 &&
    isWordOf 0x004001382800000000 .rdSlTdr8 &&
    isWordOf 0x824001382800000041 (.wrSlTdr32 0x41#32) &&
    isWordOf 0x804001382800000041 (.wrSlTdr8 0x41#8)) = true := by decide

/-- R107: memory. -/
theorem test_decode_memory :
    (isWordOf 0x002000000000000000 (.rd8Mem 0x20000000#32) &&
    isWordOf 0x8020003FFF000000AA (.wr8Mem 0x20003FFF#32 0xAA#8)) = true := by decide

/-- R108: the commands. -/
theorem test_decode_commands :
    (isWordOf 0x41000000000001C200 (.cfgLine 115200#32) &&
    isWordOf 0x42000000000001C200 (.init 115200#32) &&
    isWordOf 0x430000000000000000 .irqenDma &&
    isWordOf 0x440000000000000000 .irqenErr &&
    isWordOf 0x480000000000000000 .armRx &&
    isWordOf 0x490000000000000041 (.armTx 0x41#8) &&
    isWordOf 0x4A0000000000000000 .disarmRx &&
    isWordOf 0x4B0000000000000000 .disarmTx &&
    isWordOf 0x4C0000000000000000 .clrtcRx &&
    isWordOf 0x4D0000000000000000 .clrtcTx &&
    isWordOf 0x500000000000000000 .davail &&
    isWordOf 0x510000000000000000 .read &&
    isWordOf 0x520000000000000066 (.stx 0x66#8) &&
    isWordOf 0x530000000000000000 .mloop) = true := by decide

/-- R102: the `DATA` of a read is ignored. -/
theorem test_decode_read_ignores_data :
    decodeTableWord 72 0x0240020000FFFFFFFF = some .rdDmaIsr := by decide

/-- `w` is refused for the reason `e`. -/
def refuses (w : Nat) (e : DecodeError) : Bool :=
  match decode .standard (BitVec.ofNat 72 w) with
  | .ok _ => false
  | .error e' => decide (e' = e)

/-- Vectors V-E1 to V-E13. -/
theorem test_decode_refuses_bus :
    (refuses 0xC00000000000000000 .reservedEncoding &&
    refuses 0x044002000000000000 .reservedEncoding &&
    refuses 0x014002000000000000 .unsupportedWidth &&
    refuses 0x834002000400000200 .unsupportedWidth &&
    refuses 0x802000000400000141 .reservedEncoding &&
    refuses 0x025000000000000000 .unmappedAccess &&
    refuses 0x025000000100000000 .unmappedAccess &&
    refuses 0x024002000200000000 .misalignedAccess &&
    refuses 0x022000000000000000 .unsupportedWidth &&
    refuses 0x024002000800000000 .unimplementedRegister &&
    refuses 0x004002000000000000 .unsupportedWidth &&
    refuses 0x004001382500000000 .unsupportedWidth &&
    refuses 0x004001383000000000 .unimplementedRegister) = true := by decide

/-- Vectors V-E15 to V-E23. -/
theorem test_decode_refuses_edges_and_commands :
    (refuses 0x02400203FC00000000 .unimplementedRegister &&
    refuses 0x024002040000000000 .unmappedAccess &&
    refuses 0x8020004000000000AA .unmappedAccess &&
    refuses 0x450000000000000000 .reservedEncoding &&
    refuses 0x480000000100000000 .reservedEncoding &&
    refuses 0x480000000000000001 .reservedEncoding &&
    refuses 0x490000000000000141 .reservedEncoding &&
    refuses 0x41000000010001C200 .reservedEncoding) = true := by decide

/-! ## Single steps -/

/-- The value of `f` in the next state, if there is one. -/
def after {α : Type} (o : Out State) (f : State → α) : Option α :=
  match o with
  | .next s => some (f s)
  | _ => none

/-- What the command that ended last gave. -/
def last (s : State) : Option Result := s.results.getLast?

/-- The parameters of the autonomous variant. -/
def auto : Params := { Params.standard with echoPolicy := .autonomous }

/-- The state "configured" of 95_test_vectors.md. -/
def configured : State :=
  { State.reset with
    sl := { Serial.reset with cr1 := 0x10D#32, cr3 := 0xC1#32, div := 69#16 }
    ienDma := true
    ienErr := true
    rx := ⟨3#32, 1#16, 0x40013824#32, 0x20000000#32, false⟩ }

/-- The three writes before V-D17, with count `n`. -/
def prepared (n : BitVec 16) : State :=
  { State.reset with tx := ⟨0#32, n, 0x40013828#32, 0x20000004#32, false⟩ }

/-- Both completion flags set. -/
def bothFlags : State :=
  { configured with
    rx := { configured.rx with tcif := true }
    tx := ⟨0x12#32, 0#16, 0x40013828#32, 0x20000004#32, true⟩ }

/-- V-D1, V-D4. -/
theorem test_rdDmaIsr :
    after (exec .rdDmaIsr State.reset) last = some (some (.word 0#32)) ∧
    after (exec .rdDmaIsr bothFlags) last = some (some (.word 0x330#32)) := by decide

/-- V-D5. -/
theorem test_wrDmaIsr : after (exec (.wrDmaIsr 0xFFFFFFFF#32) bothFlags) State.dmaIsr =
    some 0x330#32 := by decide

/-- V-D6. -/
theorem test_rdDmaIfcr :
    after (exec .rdDmaIfcr bothFlags) last = some (some (.word 0#32)) := by decide

/-- V-D7, V-D8, V-D9. -/
theorem test_wrDmaIfcr :
    after (exec (.wrDmaIfcr 0x200#32) bothFlags) State.dmaIsr = some 0x030#32 ∧
    after (exec (.wrDmaIfcr 0x100#32) bothFlags) State.dmaIsr = some 0x030#32 ∧
    after (exec (.wrDmaIfcr 0x220#32) bothFlags) State.dmaIsr = some 0#32 := by decide

/-- V-D10: no bit of channel 2 or 3. -/
theorem test_wrDmaIfcr_other_bits :
    after (exec (.wrDmaIfcr 0xFFFFFCCF#32) bothFlags) State.dmaIsr = some 0x330#32 := by decide

/-- V-D16, V-D21, V-D23. -/
theorem test_wrCcrRx :
    exec (.wrCcrRx 1#32) State.reset = .refused .illegalChannelConfig ∧
    after (exec (.wrCcrRx 1#32) configured) (·.rx.ccr) = some 1#32 ∧
    after (exec (.wrCcrRx 2#32) configured) (·.rx) =
      some ⟨2#32, 1#16, 0x40013824#32, 0x20000000#32, false⟩ := by
  refine ⟨rfl, ?_⟩; decide

/-- V-D24, V-D26. -/
theorem test_wrCcrRx_stops :
    exec (.wrCcrRx 0x1003#32) configured = .fault (.enabledChannelMutation .rx .ccr) ∧
    exec (.wrCcrRx 7#32) configured = .refused .reservedBits := ⟨rfl, rfl⟩

/-- V-D13, V-D17, V-D19. -/
theorem test_wrCcrTx_stops :
    exec (.wrCcrTx 4#32) State.reset = .refused .reservedBits ∧
    exec (.wrCcrTx 3#32) (prepared 1#16) = .refused .illegalChannelConfig ∧
    exec (.wrCcrTx 0x13#32) (prepared 2#16) = .refused .unsupportedCount := ⟨rfl, rfl, rfl⟩

/-- V-D18 and V-D20: enabled with a count of 1, or of 0. -/
theorem test_wrCcrTx :
    after (exec (.wrCcrTx 0x13#32) (prepared 1#16)) (·.tx.armed) = some true ∧
    after (exec (.wrCcrTx 0x13#32) (prepared 0#16)) (·.tx.exhausted) = some true := by decide

/-- R134: the values after `INIT` and after the transmit channel is disarmed. -/
theorem test_rdCcr :
    after (exec .rdCcrRx configured) last = some (some (.word 3#32)) ∧
    after (exec .rdCcrTx bothFlags) last = some (some (.word 0x12#32)) := by decide

/-- V-D27, V-D28, V-D31. -/
theorem test_wrCndtrRx :
    exec (.wrCndtrRx 1#32) configured = .fault (.enabledChannelMutation .rx .cndtr) ∧
    exec (.wrCndtrRx 0x10000#32) configured = .refused .reservedBits ∧
    after (exec (.wrCndtrRx 0xFFFF#32) State.reset) (·.rx.ndt) = some 0xFFFF#16 := by
  refine ⟨rfl, rfl, ?_⟩; decide

/-- V-D29, V-D30. -/
theorem test_wrCparRx_wrCmarRx :
    exec (.wrCparRx 0x40013824#32) configured = .fault (.enabledChannelMutation .rx .cpar) ∧
    exec (.wrCmarRx 0x20000008#32) configured = .fault (.enabledChannelMutation .rx .cmar) :=
  ⟨rfl, rfl⟩

/-- The three writes before V-D17 on a disabled channel. -/
theorem test_wrTx_disabled :
    after (exec (.wrCparTx 0x40013828#32) State.reset) (·.tx.cpar) = some 0x40013828#32 ∧
    after (exec (.wrCmarTx 0x20000004#32) State.reset) (·.tx.cmar) = some 0x20000004#32 ∧
    after (exec (.wrCndtrTx 1#32) State.reset) (·.tx.ndt) = some 1#16 := by decide

/-- V-D33, and the count of an armed channel. -/
theorem test_rdRx :
    after (exec .rdCparRx configured) last = some (some (.word 0x40013824#32)) ∧
    after (exec .rdCmarRx configured) last = some (some (.word 0x20000000#32)) ∧
    after (exec .rdCndtrRx configured) last = some (some (.word 1#32)) := by decide

/-- R142, R144, R140 of the transmit channel. -/
theorem test_rdTx :
    after (exec .rdCparTx bothFlags) last = some (some (.word 0x40013828#32)) ∧
    after (exec .rdCmarTx bothFlags) last = some (some (.word 0x20000004#32)) ∧
    after (exec .rdCndtrTx bothFlags) last = some (some (.word 0#32)) := by decide

/-- R211, R213, R215: the values after `CFGLINE`. -/
theorem test_read_line_control :
    after (exec .rdSlCr1 configured) last = some (some (.word 0x10D#32)) ∧
    after (exec .rdSlCr3 configured) last = some (some (.word 0xC1#32)) ∧
    after (exec .rdSlBrr configured) last = some (some (.word 69#32)) := by decide

/-- V-S16, V-S17, V-S18. -/
theorem test_write_line_control_reserved :
    exec (.wrSlCr1 0x20#32) State.reset = .refused .reservedBits ∧
    exec (.wrSlCr3 0x100#32) State.reset = .refused .reservedBits ∧
    exec (.wrSlBrr 0x10000#32) State.reset = .refused .reservedBits := ⟨rfl, rfl, rfl⟩

/-- R212, R214, R216: the examples. -/
theorem test_write_line_control :
    after (exec (.wrSlCr1 0xD#32) State.reset) (·.sl.cr1) = some 0xD#32 ∧
    after (exec (.wrSlCr3 0xC0#32) State.reset) (·.sl.cr3) = some 0xC0#32 ∧
    after (exec (.wrSlBrr 0x45#32) State.reset) (·.sl.div) = some 69#16 := by decide

/-- All four error flags set: `SL_ISR` = 0x8F. -/
def allErrors : State :=
  { configured with sl := { configured.sl with pe := true, fe := true, nf := true, ore := true } }

/-- V-S21 and V-S8's start. -/
theorem test_rdSlIsr :
    after (exec .rdSlIsr State.reset) last = some (some (.word 0x80#32)) ∧
    after (exec .rdSlIsr allErrors) last = some (some (.word 0x8F#32)) := by decide

/-- V-S8: each bit clears its own flag. -/
theorem test_wrSlIcr :
    after (exec (.wrSlIcr 2#32) allErrors) (·.sl.isr) = some 0x8D#32 ∧
    after (exec (.wrSlIcr 8#32) allErrors) (·.sl.isr) = some 0x87#32 ∧
    after (exec (.wrSlIcr 4#32) allErrors) (·.sl.isr) = some 0x8B#32 ∧
    after (exec (.wrSlIcr 1#32) allErrors) (·.sl.isr) = some 0x8E#32 := by decide

/-- V-S9 (without `RXNE`), V-S10. -/
theorem test_wrSlIcr_all :
    after (exec (.wrSlIcr 0xA0#32) allErrors) (·.sl.isr) = some 0x8F#32 ∧
    after (exec (.wrSlIcr 0xF#32) allErrors) (·.sl.isr) = some 0x80#32 := by decide

/-- R218, R219, R223: read-only and write-only registers of the line. -/
theorem test_line_read_only :
    after (exec (.wrSlIsr 0xFFFFFFFF#32) allErrors) (·.sl) = some allErrors.sl ∧
    after (exec .rdSlIcr allErrors) last = some (some (.word 0#32)) ∧
    after (exec (.wrSlRdr32 0x55#32) configured) (·.sl) = some configured.sl ∧
    after (exec (.wrSlRdr8 0x55#8) configured) (·.sl) = some configured.sl := by decide

/-- A byte waits in `SL_RDR` (after V-S2). -/
def waiting : State :=
  { configured with sl := { configured.sl with rdr := 0x41#8, rxne := true } }

/-- V-S13, V-E14. -/
theorem test_rdSlRdr :
    after (exec .rdSlRdr32 waiting) (fun s => (last s, s.sl.rxne)) =
      some (some (.word 0x41#32), false) ∧
    after (exec .rdSlRdr8 waiting) (fun s => (last s, s.sl.rxne)) =
      some (some (.byte 0x41#8), false) := by decide

/-- V-S14, V-S15. -/
theorem test_wrSlTdr :
    exec (.wrSlTdr32 0x141#32) configured = .refused .reservedBits ∧
    after (exec (.wrSlTdr8 0x41#8) configured) (fun s => (s.sl.tdr, s.sl.txe)) =
      some (0x41#8, false) ∧
    after (exec (.wrSlTdr32 0x41#32) configured) (fun s => (s.sl.tdr, s.sl.txe)) =
      some (0x41#8, false) := by
  refine ⟨rfl, ?_⟩; decide

/-- R225. -/
theorem test_rdSlTdr :
    after (exec .rdSlTdr32 { configured with sl := { configured.sl with tdr := 0x5A#8 } }) last =
      some (some (.word 0x5A#32)) ∧
    after (exec .rdSlTdr8 { configured with sl := { configured.sl with tdr := 0x5A#8 } }) last =
      some (some (.byte 0x5A#8)) := by decide

/-- V-M1, V-M3, V-M2. -/
theorem test_rd8Mem :
    exec (.rd8Mem 0x20000000#32) State.reset = .fault (.unwrittenRead 0x20000000#32) ∧
    exec (.rd8Mem 0x20000001#32) { State.reset with mem := [(0x20000000, 0x7E#8)] } =
      .fault (.unwrittenRead 0x20000001#32) ∧
    after (exec (.rd8Mem 0x20000000#32) { State.reset with mem := [(0x20000000, 0x7E#8)] }) last =
      some (some (.byte 0x7E#8)) := by
  refine ⟨rfl, rfl, ?_⟩; decide

/-- V-E17, V-M4: a written zero is not `unwritten`. -/
theorem test_wr8Mem :
    after (exec (.wr8Mem 0x20003FFF#32 0xAA#8) State.reset) (·.byteAt 0x20003FFF#32) =
      some (some 0xAA#8) ∧
    after (exec (.wr8Mem 0x20000004#32 0#8) State.reset) (·.byteAt 0x20000004#32) =
      some (some 0#8) := by decide

/-- V-B1 and V-B7: the divisor is written at `c2`. -/
theorem test_cfgLine :
    after (repeatOut (exec (.cfgLine 115200#32)) 3 State.reset) (·.sl.div) = some 69#16 ∧
    after (repeatOut (exec (.cfgLine 123#32)) 3 State.reset) (·.sl.div) = some 0xFE10#16 := by
  decide

/-- V-B6, V-B8, V-B11. -/
theorem test_cfgLine_refused :
    exec (.cfgLine 8000001#32) State.reset = .refused .divisorOutOfRange ∧
    exec (.cfgLine 122#32) State.reset = .refused .divisorOutOfRange ∧
    exec (.cfgLine 0#32) State.reset = .refused .zeroBaud := ⟨rfl, rfl, rfl⟩

/-- R286: `i1` follows `c9`. -/
theorem test_init :
    after (exec (.init 115200#32)
      { State.reset with main := .running 0#72 (.cfg .c9) .fresh }) (·.mainPos) = some .i1 ∧
    after (exec (.init 115200#32)
      { State.reset with main := .running 0#72 .i1 .fresh }) (·.ienDma) = some true := by decide

/-- R329. -/
theorem test_irqen :
    after (exec .irqenDma State.reset) (fun s => (s.ienDma, s.ienErr)) = some (true, false) ∧
    after (exec .irqenErr State.reset) (fun s => (s.ienDma, s.ienErr)) = some (false, true) := by
  decide

/-- V-T17: the second word of `ARM_RX` on an enabled channel clears `EN` without a fault. -/
theorem test_armRx :
    after (repeatOut (exec .armRx) 2 configured) (·.rx.ccr) = some 2#32 := by decide

/-- V-T18: the first word of `ARM_TX` writes the cell. -/
theorem test_armTx :
    after (exec (.armTx 0x41#8) State.reset) (·.byteAt 0x20000004#32) = some (some 0x41#8) := by
  decide

/-- V-T14, R189. -/
theorem test_disarm :
    after (repeatOut (exec .disarmRx) 2 waiting) (fun s => (s.rx, s.sl.rxne)) =
      some (⟨2#32, 1#16, 0x40013824#32, 0x20000000#32, false⟩, true) ∧
    after (repeatOut (exec .disarmTx) 2 bothFlags) (·.tx.ccr) = some 0x12#32 := by decide

/-- V-T15, V-T16. -/
theorem test_clrtc :
    after (exec .clrtcRx bothFlags) State.dmaIsr = some 0x030#32 ∧
    after (exec .clrtcTx bothFlags) State.dmaIsr = some 0x300#32 := by decide

/-- V-E24, V-E25. -/
theorem test_davail :
    exec .davail (State.resetWith auto []) = .refused .commandNotInVariant ∧
    after (exec .davail State.reset) last = some (some (.bit false)) := by
  refine ⟨rfl, ?_⟩; decide

/-- V-C6. -/
theorem test_read : exec .read State.reset = .fault (.unwrittenRead 0x20000000#32) := rfl

/-- V-C9, and R282 with no transmit in flight. -/
theorem test_stx :
    after (exec (.stx 0x55#8) { State.reset with txDone := false }) (·.mainPos) =
      some (.stx .w1) ∧
    after (exec (.stx 0x55#8) State.reset) (·.mainPos) = some (.stx .w2) := by decide

/-- V-C8: the test of the enable bit. -/
theorem test_stx_enbit :
    after (exec (.stx 0x66#8)
      { State.reset with
        params := { Params.standard with txWaitMode := .enbit }
        tx := ⟨0x13#32, 0#16, 0#32, 0#32, true⟩ }) (·.mainPos) = some (.stx .w1) := by decide

/-- R283: with nothing received `MLOOP` polls again. -/
theorem test_mloop :
    after (exec .mloop configured) (·.mainPos) = some .first ∧
    after (exec .mloop { configured with rxComplete := true }) (·.mainPos) =
      some (.p2 .m1) := by decide

/-- `s` with one turn of agent `t` listed. -/
def turnOf (t : Turn) (s : State) : State := { s with sched := [t] }

/-- V-T1, V-T2. -/
theorem test_transfer_rx :
    after (step (turnOf (.ch .rx) waiting))
      (fun s => (s.byteAt 0x20000000#32, s.sl.rxne, s.rx.ndt, s.rx.tcif, s.irqDma)) =
      some (some 0x41#8, false, 0#16, true, true) ∧
    after (step (turnOf (.ch .rx)
      { waiting with sl := { waiting.sl with cr3 := 0x81#32 } })) (·.rx.ndt) = some 1#16 := by
  decide

/-- The transmit channel armed, `txCell` holding 0x41 (V-T5). -/
def armedTx : State :=
  { configured with
    mem := [(0x20000004, 0x41#8)]
    tx := ⟨0x13#32, 1#16, 0x40013828#32, 0x20000004#32, false⟩ }

/-- V-T5, V-T7. -/
theorem test_transfer_tx :
    after (step (turnOf (.ch .tx) armedTx)) (fun s => (s.sl.tdr, s.sl.txe, s.tx.ndt, s.tx.tcif)) =
      some (0x41#8, false, 0#16, true) ∧
    after (step (turnOf (.ch .tx) { armedTx with mem := [] })) (·.faultMark) =
      some (some (.unwrittenRead 0x20000004#32)) := by decide

/-- Both channels ready. -/
def bothReady (arb : ArbPolicy) (ccr : Word) : State :=
  { armedTx with
    params := { Params.standard with arbPolicy := arb }
    sl := { waiting.sl with txe := true }
    rx := { configured.rx with ccr := ccr } }

/-- V-T8, V-T9, V-T10. -/
theorem test_arbiter :
    ((bothReady .fixed 3#32).granted .rx, (bothReady .fixed 3#32).granted .tx) = (false, true) ∧
    ((bothReady .fixed 0x1003#32).granted .rx, (bothReady .fixed 0x1003#32).granted .tx) =
      (true, false) ∧
    ((bothReady .free 3#32).granted .rx, (bothReady .free 3#32).granted .tx) = (true, true) := by
  decide

/-- One frame arrives. -/
def arrives (f : Frame) (s : State) : State := turnOf .slrx { s with rxWire := [f] }

/-- V-S1 to V-S3. -/
theorem test_frame :
    after (step (arrives ⟨0x41#8, false, false, false⟩ State.reset)) (·.sl.isr) = some 0x80#32 ∧
    after (step (arrives ⟨0x41#8, false, false, false⟩ configured))
      (fun s => (s.sl.rdr, s.sl.isr)) = some (0x41#8, 0xA0#32) ∧
    after (step (arrives ⟨0x42#8, false, false, false⟩ waiting))
      (fun s => (s.sl.rdr, s.sl.isr)) = some (0x41#8, 0xA8#32) := by decide

/-- V-S4 to V-S6. -/
theorem test_frame_marked :
    after (step (arrives ⟨0x55#8, true, false, false⟩ configured)) (·.sl.isr) = some 0x82#32 ∧
    after (step (arrives ⟨0x55#8, true, true, true⟩ configured)) (·.sl.isr) = some 0x87#32 ∧
    after (step (arrives ⟨0x55#8, true, false, false⟩ waiting)) (·.sl.isr) = some 0xA2#32 := by
  decide

/-- V-S11, V-S12. -/
theorem test_emit :
    after (step (turnOf .sltx { configured with
      sl := { configured.sl with tdr := 0x41#8, txe := false } })) (fun s => (s.txLine, s.sl.txe)) =
      some ([0x41#8], true) ∧
    after (step (turnOf .sltx { configured with
      sl := { configured.sl with cr1 := 0x105#32, tdr := 0x41#8, txe := false } })) (·.txLine) =
      some [] := by decide

/-- V-T12, V-T13, V-S19, V-S20. -/
theorem test_interrupt_lines :
    { bothFlags with rx := { bothFlags.rx with tcif := false } }.irqDma = true ∧
    { bothFlags with
      rx := { bothFlags.rx with ccr := 1#32 }
      tx := { bothFlags.tx with tcif := false } }.irqDma = false ∧
    { configured.sl with cr1 := 0xD#32, pe := true }.irqErr = false ∧
    { configured.sl with cr3 := 0xC0#32, ore := true }.irqErr = false ∧
    { configured.sl with ore := true }.irqErr = true := by decide

/-- V-X1: both lines due, `H_DMA` is entered. -/
theorem test_entry :
    after (step (turnOf (.cpu .runMain) { bothFlags with sl := allErrors.sl }))
      (fun s => (s.hDma.isActive, s.hErr.isActive)) = some (true, false) := by decide

/-- V-C1 and V-C2: the transmit branch. -/
theorem test_handler_tx :
    after (repeatOut dmaRun 2 { bothFlags with hDma := .active .d1 .fresh }) (·.hDma) =
      some (.active .d3 ⟨0x330#32, 0#32, 0#8, false⟩) ∧
    after (repeatOut dmaRun 2
      { bothFlags with params := auto, hDma := .active .d1 .fresh }) (·.hDma) =
      some (.active (.d4 .q1) ⟨0x330#32, 0#32, 0#8, false⟩) := by decide

/-- V-C5: only `ORE` is set. -/
theorem test_handler_err :
    after (repeatOut errRun 6
      { configured with
        sl := { configured.sl with ore := true }, hErr := .active .e1 .fresh })
      (fun s => (s.sl.isr, s.hErr.isActive)) = some (0x80#32, false) := by decide

/-- V-R7: after reset an arriving frame is lost and nothing follows. -/
theorem test_reset_frame_lost :
    after (step (arrives ⟨0x41#8, false, false, false⟩ State.reset))
      (fun s => (s.rxWire, s.irqDma, s.sl.irqErr)) = some ([], false, false) := by decide

/-! ## Witnesses

For every statement with hypotheses a state and operands that meet all of them together, each clause
at a boundary of its range. -/

/-- The default parameters are in their ranges, and so are those of the autonomous variant. -/
theorem standard_wf : Params.standard.Wf ∧ auto.Wf := by decide

/-- The last byte of RAM is a well-formed operand, and so is the first. -/
theorem witness_DecodeEncodeAgree :
    Params.standard.Wf ∧ (Instr.rd8Mem 0x20003FFF#32).wellFormed .standard = true ∧
    (Instr.wr8Mem 0x20000000#32 0xFF#8).wellFormed .standard = true := by decide

/-- An accepted write, and an accepted read whose `DATA` is not 0. -/
theorem witness_AcceptedWordsAreEncodings :
    decode .standard 0x82400200300000FFFF#72 = .ok (.wrCcrRx 0xFFFF#32) ∧
    ctlOf 0x82400200300000FFFF#72 ≠ 0#8 ∧ ctlOf 0x82400200300000FFFF#72 ≠ 2#8 ∧
    decode .standard 0x024002003000000001#72 = .ok .rdCcrRx :=
  ⟨rfl, by decide, by decide, rfl⟩

/-- The clauses on the class, the zero bits, the width and the high bytes. -/
theorem witness_DecodeRefusesInOrder :
    (0xC00000000000000000#72).extractLsb' 70 2 = 3#2 ∧
    ((0x044002000000000000#72).getLsbD 70 = false ∧
      (0x044002000000000000#72).extractLsb' 66 4 ≠ 0#4) ∧
    ((0x014002000000000000#72).getLsbD 70 = false ∧
      (0x014002000000000000#72).extractLsb' 66 4 = 0#4 ∧
      (0x014002000000000000#72).getLsbD 64 = true) ∧
    ((0x802000000400000100#72).getLsbD 70 = false ∧
      (0x802000000400000100#72).extractLsb' 66 4 = 0#4 ∧
      (0x802000000400000100#72).extractLsb' 64 2 = 0#2 ∧
      (0x802000000400000100#72).getLsbD 71 = true ∧
      (0x802000000400000100#72).extractLsb' 8 24 ≠ 0#24) := by decide

/-- The clauses on a 32-bit access: one after the DMA window, misaligned in it, the first word of RAM,
no register between `DMA_IFCR` and the first channel and in the last word of the serial window. -/
theorem witness_DecodeRefusesInOrder_address :
    (let t := 0x024002040000000000#72;
      t.extractLsb' 64 2 = 2#2 ∧ ¬ Params.standard.inDma (addrOf t) ∧
      ¬ Params.standard.inSl (addrOf t) ∧ ¬ Params.standard.inRam (addrOf t)) ∧
    (let t := 0x02400203FF00000000#72;
      t.extractLsb' 64 2 = 2#2 ∧ Params.standard.inDma (addrOf t) ∧
      t.extractLsb' 32 2 ≠ 0#2) ∧
    (let t := 0x022000000000000000#72;
      t.extractLsb' 64 2 = 2#2 ∧ Params.standard.inRam (addrOf t) ∧
      t.extractLsb' 32 2 = 0#2) ∧
    (let t := 0x024002000800000000#72;
      Params.standard.Wf ∧ t.extractLsb' 64 2 = 2#2 ∧ Params.standard.inDma (addrOf t) ∧
      t.extractLsb' 32 2 = 0#2 ∧ ∀ r ∈ Reg.all, addrOf t ≠ Params.standard.regAddr r) ∧
    (let t := 0x0240013BFC00000000#72;
      t.extractLsb' 64 2 = 2#2 ∧ Params.standard.inSl (addrOf t) ∧ t.extractLsb' 32 2 = 0#2 ∧
      ∀ r ∈ Reg.all, addrOf t ≠ Params.standard.regAddr r) := by decide

/-- `Reg.all` lists every register, so the clauses above hold of every one. -/
theorem reg_mem_all (r : Reg) : r ∈ Reg.all := by
  rcases r with _ | _ | (_ | _) | (_ | _) | (_ | _) | (_ | _) | _ | _ | _ | _ | _ | _ | _ <;> decide

/-- The clauses on an 8-bit access: one before RAM, the first byte of `DMA_ISR`, the last byte of
`SL_RDR`, the first byte after `SL_TDR`. -/
theorem witness_DecodeRefusesInOrder_byte :
    (let t := 0x001FFFFFFF00000000#72;
      t.extractLsb' 64 2 = 0#2 ∧ t.getLsbD 71 = false ∧ ¬ Params.standard.inDma (addrOf t) ∧
      ¬ Params.standard.inSl (addrOf t) ∧ ¬ Params.standard.inRam (addrOf t)) ∧
    (let t := 0x0040020000FFFFFFFF#72;
      Params.standard.Wf ∧ t.extractLsb' 64 2 = 0#2 ∧ t.getLsbD 71 = false ∧
      addrOf t = Params.standard.regAddr .dmaIsr ∧ Reg.dmaIsr ≠ .slRdr ∧ Reg.dmaIsr ≠ .slTdr) ∧
    (let t := 0x8040013827000000FF#72;
      t.extractLsb' 64 2 = 0#2 ∧ t.getLsbD 71 = true ∧ t.extractLsb' 8 24 = 0#24 ∧
      (Params.standard.regAddr .slRdr).toNat ≤ (addrOf t).toNat ∧
      (addrOf t).toNat < (Params.standard.regAddr .slRdr).toNat + 4 ∧
      addrOf t ≠ Params.standard.regAddr .slRdr) ∧
    (let t := 0x004001382C00000000#72;
      t.extractLsb' 64 2 = 0#2 ∧ t.getLsbD 71 = false ∧ Params.standard.inSl (addrOf t) ∧
      ∀ r ∈ Reg.all, ¬ ((Params.standard.regAddr r).toNat ≤ (addrOf t).toNat ∧
        (addrOf t).toNat < (Params.standard.regAddr r).toNat + 4)) := by decide

/-- The clauses on a command: a nonzero `ADDR`, the codes next to the ones defined, a nonzero `DATA`
of the first and the last command without an argument, more than a byte for `ARM_TX` and `STX`. -/
theorem witness_DecodeRefusesInOrder_command :
    (let t := 0x410000000100002580#72; t.extractLsb' 70 2 = 1#2 ∧ addrOf t ≠ 0#32) ∧
    (∀ cc ∈ ([0x00, 0x05, 0x07, 0x0E, 0x0F, 0x14, 0x3F] : List (BitVec 6)),
      cc ∉ ([0x01, 0x02, 0x03, 0x04, 0x08, 0x09, 0x0A, 0x0B, 0x0C, 0x0D, 0x10, 0x11, 0x12, 0x13] :
        List (BitVec 6))) ∧
    (let t := 0x430000000080000000#72;
      t.extractLsb' 70 2 = 1#2 ∧ t.extractLsb' 64 6 = 0x03#6 ∧ dataOf t ≠ 0#32) ∧
    (let t := 0x530000000000000001#72;
      t.extractLsb' 70 2 = 1#2 ∧ t.extractLsb' 64 6 = 0x13#6 ∧ dataOf t ≠ 0#32) ∧
    (let t := 0x490000000000000100#72;
      t.extractLsb' 70 2 = 1#2 ∧ t.extractLsb' 64 6 = 0x09#6 ∧ t.extractLsb' 8 24 ≠ 0#24) ∧
    (let t := 0x520000000080000000#72;
      t.extractLsb' 70 2 = 1#2 ∧ t.extractLsb' 64 6 = 0x12#6 ∧ t.extractLsb' 8 24 ≠ 0#24) := by
  decide

/-- `MAIN` holds word `w` and the next turn is the `CPU`'s. -/
def holds (w : OpWord) (s : State) : State :=
  turnOf (.cpu .runMain) { s with main := .running w .first .fresh }

/-- A read of `SL_ISR` after reset. -/
theorem witness_StepRunsDecodedInstruction :
    (let s := holds 0x024001381C00000000#72 State.reset;
      s.faultMark = none ∧ s.refusedMark = none ∧ s.nextTurn = .cpu .runMain ∧
      s.main = .running 0x024001381C00000000#72 .first .fresh ∧ s.hDma = .inactive ∧
      s.hErr = .inactive ∧ s.dueDma = false ∧ s.dueErr = false) ∧
    decode .standard 0x024001381C00000000#72 = .ok .rdSlIsr ∧
    (∃ t, exec .rdSlIsr (holds 0x024001381C00000000#72 State.reset).afterTurn = .next t) :=
  ⟨by decide, rfl, _, rfl⟩

/-- The same word placed after reset. -/
theorem witness_PlacedWordRunsNext :
    decode State.reset.params (BitVec.ofNat 72 0x024001381C00000000) = .ok .rdSlIsr := rfl

/-- A word of the reserved class, and a state with each mark. -/
theorem witness_MarksEndTheRun :
    (let s := holds 0xC00000000000000000#72 State.reset;
      s.faultMark = none ∧ s.refusedMark = none ∧ s.nextTurn = .cpu .runMain ∧
      s.main = .running 0xC00000000000000000#72 .first .fresh ∧ s.hDma = .inactive ∧
      s.hErr = .inactive ∧ s.dueDma = false ∧ s.dueErr = false) ∧
    decode .standard 0xC00000000000000000#72 = .error .reservedEncoding ∧
    { State.reset with faultMark := some (.unwrittenRead 0#32) }.faultMark =
      some (.unwrittenRead 0#32) ∧
    ({ State.reset with refusedMark := some .zeroBaud }.faultMark = none ∧
      { State.reset with refusedMark := some .zeroBaud }.refusedMark = some .zeroBaud) :=
  ⟨by decide, rfl, rfl, rfl, rfl⟩

/-- Parameters in their ranges: `ReadSharedStatus`, `ClearFlagCommands`, `ResetHasInvariant`. -/
theorem witness_ReadSharedStatus : bothFlags.params.Wf := by decide

/-- See `witness_ReadSharedStatus`. -/
theorem witness_ClearFlagCommands : bothFlags.params.Wf := by decide

/-- See `witness_ReadSharedStatus`. -/
theorem witness_ResetHasInvariant : auto.Wf := by decide

/-- The receive channel configured but for its enable bit, with count `n`. -/
def preparedRx (n : BitVec 16) : State :=
  { State.reset with rx := ⟨0#32, n, 0x40013824#32, 0x20000000#32, false⟩ }

/-- Enabling writes with counts of 0 and 1, and writes of an enabled channel. -/
theorem witness_WriteChannelConfigurationCompletes :
    (0x3003#32 &&& 0xFFFFCFEC#32 = 0#32 ∧ (preparedRx 1#16).rx.ccr.getLsbD 0 = false ∧
      (0x3003#32).getLsbD 0 = true ∧ (0x3003#32).getLsbD 4 = false ∧
      (preparedRx 1#16).rx.cpar = (preparedRx 1#16).params.slBase + 0x24#32 ∧
      (preparedRx 1#16).rx.cmar = (preparedRx 1#16).params.rxCellAddr ∧
      (preparedRx 0#16).rx.ndt = 0#16) ∧
    (0x13#32 &&& 0xFFFFCFEC#32 = 0#32 ∧ (prepared 0#16).tx.ccr.getLsbD 0 = false ∧
      (0x13#32).getLsbD 0 = true ∧ (0x13#32).getLsbD 4 = true ∧
      (prepared 0#16).tx.cpar = (prepared 0#16).params.slBase + 0x28#32 ∧
      (prepared 0#16).tx.cmar = (prepared 0#16).params.txCellAddr ∧
      (prepared 1#16).tx.ndt = 1#16) ∧
    (configured.rx.ccr.getLsbD 0 = true ∧ 2#32 &&& 0x3010#32 = configured.rx.ccr &&& 0x3010#32) ∧
    (armedTx.tx.ccr.getLsbD 0 = true ∧ 0x12#32 &&& 0x3010#32 = armedTx.tx.ccr &&& 0x3010#32) := by
  decide

/-- A reserved bit, a changed field of an enabled channel. -/
theorem witness_WriteChannelConfigurationStops :
    4#32 &&& 0xFFFFCFEC#32 ≠ 0#32 ∧
    (0x1003#32 &&& 0xFFFFCFEC#32 = 0#32 ∧ configured.rx.ccr.getLsbD 0 = true ∧
      0x1003#32 &&& 0x3010#32 ≠ configured.rx.ccr &&& 0x3010#32) ∧
    (2#32 &&& 0xFFFFCFEC#32 = 0#32 ∧ armedTx.tx.ccr.getLsbD 0 = true ∧
      2#32 &&& 0x3010#32 ≠ armedTx.tx.ccr &&& 0x3010#32) := by decide

/-- An enabling write of an unbound channel, and of a bound one with a count of 2. -/
theorem witness_WriteChannelConfigurationStops_enabling :
    (State.reset.rx.ccr.getLsbD 0 = false ∧ (3#32).getLsbD 0 = true ∧
      ¬ ((3#32).getLsbD 4 = false ∧ State.reset.rx.cpar = State.reset.params.slBase + 0x24#32 ∧
        State.reset.rx.cmar = State.reset.params.rxCellAddr)) ∧
    ((preparedRx 2#16).rx.ccr.getLsbD 0 = false ∧
      ((3#32).getLsbD 4 = false ∧
        (preparedRx 2#16).rx.cpar = (preparedRx 2#16).params.slBase + 0x24#32 ∧
        (preparedRx 2#16).rx.cmar = (preparedRx 2#16).params.rxCellAddr) ∧
      2 ≤ (preparedRx 2#16).rx.ndt.toNat) ∧
    ((prepared 1#16).tx.ccr.getLsbD 0 = false ∧
      ¬ ((3#32).getLsbD 4 = true ∧
        (prepared 1#16).tx.cpar = (prepared 1#16).params.slBase + 0x28#32 ∧
        (prepared 1#16).tx.cmar = (prepared 1#16).params.txCellAddr)) ∧
    ((prepared 2#16).tx.ccr.getLsbD 0 = false ∧ (0x13#32).getLsbD 0 = true ∧
      ((0x13#32).getLsbD 4 = true ∧
        (prepared 2#16).tx.cpar = (prepared 2#16).params.slBase + 0x28#32 ∧
        (prepared 2#16).tx.cmar = (prepared 2#16).params.txCellAddr) ∧
      2 ≤ (prepared 2#16).tx.ndt.toNat) := by decide

/-- Both channels disabled. -/
theorem witness_WriteCountsAndAddressesComplete :
    State.reset.rx.ccr.getLsbD 0 = false ∧ State.reset.tx.ccr.getLsbD 0 = false := by decide

/-- Both channels enabled; the largest count and the first that is refused. -/
theorem witness_EnabledChannelMutationFaults :
    65536 ≤ (0x10000#32).toNat ∧ (0xFFFF#32).toNat < 65536 ∧
    armedTx.rx.ccr.getLsbD 0 = true ∧ armedTx.tx.ccr.getLsbD 0 = true := by decide

/-- Every field set, one reserved bit more, and the first divisor that is refused. -/
theorem witness_WriteLineControl :
    0x10D#32 &&& 0xFFFFFEF2#32 = 0#32 ∧ 0x10F#32 &&& 0xFFFFFEF2#32 ≠ 0#32 ∧
    0xC1#32 &&& 0xFFFFFF3E#32 = 0#32 ∧ 0xC3#32 &&& 0xFFFFFF3E#32 ≠ 0#32 ∧
    65536 ≤ (0x10000#32).toNat := by decide

/-- The first value that is more than a byte. -/
theorem witness_DataRegisters : 256 ≤ (0x100#32).toNat := by decide

/-- The last byte of RAM, and another address. -/
theorem witness_StoreByteThenRead :
    State.reset.params.inRam 0x20003FFF#32 ∧ 0x20003FFE#32 ≠ 0x20003FFF#32 := by decide

/-- A written byte and an unwritten one. -/
theorem witness_LoadByte :
    armedTx.params.inRam 0x20000004#32 ∧ armedTx.byteAt 0x20000004#32 = some 0x41#8 ∧
    armedTx.params.inRam 0x20003FFF#32 ∧ armedTx.byteAt 0x20003FFF#32 = none := by decide

/-- An idle `MAIN` is at its first step, with the channel enabled. -/
theorem witness_ArmReceiveCompletes : configured.mainPos = .first := by decide

/-- The same, and `txCell` in RAM. -/
theorem witness_ArmTransmitCompletes :
    armedTx.mainPos = .first ∧ armedTx.params.inRam armedTx.params.txCellAddr := by decide

/-- Both channels enabled. -/
theorem witness_DisarmCompletes :
    armedTx.mainPos = .first ∧ armedTx.rx.en = true ∧ armedTx.tx.en = true := by decide

/-- V-T1; V-T5; V-T7. -/
theorem witness_TransferSteps :
    (let s := turnOf (.ch .rx) waiting;
      s.faultMark = none ∧ s.refusedMark = none ∧ s.nextTurn = .ch .rx ∧ s.granted .rx = true ∧
      s.params.inRam s.rx.cmar) ∧
    (let s := turnOf (.ch .tx) armedTx;
      s.faultMark = none ∧ s.refusedMark = none ∧ s.nextTurn = .ch .tx ∧ s.granted .tx = true ∧
      s.params.inRam s.tx.cmar ∧ s.byteAt s.tx.cmar = some 0x41#8) ∧
    (let s := turnOf (.ch .tx) { armedTx with mem := [] };
      s.faultMark = none ∧ s.refusedMark = none ∧ s.nextTurn = .ch .tx ∧ s.granted .tx = true ∧
      s.params.inRam s.tx.cmar ∧ s.byteAt s.tx.cmar = none) := by decide

/-- Ready, each role, with all error flags set; granted; not granted. -/
theorem witness_TransferNeedsRequest :
    (let s := { waiting with sl := { allErrors.sl with rxne := true } };
      (s.chan .rx).ccr.getLsbD 0 = true ∧ (s.chan .rx).ndt = 1#16 ∧ s.sl.cr1.getLsbD 0 = true ∧
      s.sl.cr1.getLsbD 2 = true ∧ s.sl.cr3.getLsbD 6 = true ∧ s.sl.rxne = true ∧
      s.sl.ore = true ∧ s.ready .rx = true) ∧
    (let s := { armedTx with sl := allErrors.sl };
      (s.chan .tx).ccr.getLsbD 0 = true ∧ (s.chan .tx).ndt = 1#16 ∧ s.sl.cr1.getLsbD 0 = true ∧
      s.sl.cr1.getLsbD 3 = true ∧ s.sl.cr3.getLsbD 7 = true ∧ s.sl.txe = true ∧
      s.sl.ore = true ∧ s.ready .tx = true) ∧
    (waiting.granted .rx = true ∧ armedTx.granted .tx = true) ∧
    (let s := turnOf (.ch .rx) configured;
      s.faultMark = none ∧ s.refusedMark = none ∧ s.nextTurn = .ch .rx ∧
      s.granted .rx = false) := by decide

/-- Both ready with equal, with larger and with smaller `PL`; both ready with `FREE`; one ready. -/
theorem witness_ArbiterGrants :
    (let s := bothReady .fixed 3#32;
      s.params.Wf ∧ s.ready .rx = true ∧ s.ready .tx = true ∧ s.params.arbPolicy = .fixed ∧
      s.rx.ccr.extractLsb' 12 2 = s.tx.ccr.extractLsb' 12 2) ∧
    (let s := bothReady .fixed 0x1003#32;
      s.ready .rx = true ∧ s.ready .tx = true ∧
      s.tx.ccr.extractLsb' 12 2 < s.rx.ccr.extractLsb' 12 2) ∧
    (let s := { bothReady .fixed 3#32 with
        tx := { armedTx.tx with ccr := 0x3013#32 } };
      s.ready .rx = true ∧ s.ready .tx = true ∧
      s.rx.ccr.extractLsb' 12 2 < s.tx.ccr.extractLsb' 12 2) ∧
    (let s := bothReady .free 3#32;
      s.ready .rx = true ∧ s.ready .tx = true ∧ s.params.arbPolicy = .free) ∧
    (waiting.params.Wf ∧ Role.rx ≠ Role.tx ∧ waiting.ready .rx = true ∧
      waiting.ready .tx = false) := by decide

/-- The transfer of V-T1 sets the flag. -/
theorem witness_OnlyTransfersSetCompletionFlags :
    ∃ t, step (turnOf (.ch .rx) waiting) = .next t ∧
      ((turnOf (.ch .rx) waiting).chan .rx).tcif = false ∧ (t.chan .rx).tcif = true :=
  ⟨_, rfl, by decide, by decide⟩

/-- A frame on the wire. -/
theorem witness_FrameArrival :
    let s := arrives ⟨0x41#8, false, false, false⟩ configured;
    s.faultMark = none ∧ s.refusedMark = none ∧ s.nextTurn = .slrx ∧
    s.rxWire = [⟨0x41#8, false, false, false⟩] := by decide

/-- V-S11: a byte waits in `SL_TDR`. -/
theorem witness_EmissionStep :
    let s := turnOf .sltx { configured with sl := { configured.sl with tdr := 0x41#8, txe := false } };
    s.faultMark = none ∧ s.refusedMark = none ∧ s.nextTurn = .sltx ∧
    s.sl.cr1.getLsbD 0 = true ∧ s.sl.cr1.getLsbD 3 = true ∧ s.sl.txe = false := by decide

/-- After reset, launched with a clock of `hz`. -/
def clocked (hz : Nat) : State := State.resetWith { Params.standard with clkHz := hz } []

/-- The smallest and the largest divisor. -/
theorem witness_ConfigureLineCompletes :
    (State.reset.mainPos = .first ∧ 8000000#32 ≠ 0#32 ∧
      1 ≤ State.reset.params.clkHz / (8000000#32).toNat ∧
      State.reset.params.clkHz / (8000000#32).toNat ≤ 0xFFFF) ∧
    ((clocked 65535).mainPos = .first ∧ 1#32 ≠ 0#32 ∧
      1 ≤ (clocked 65535).params.clkHz / (1#32).toNat ∧
      (clocked 65535).params.clkHz / (1#32).toNat ≤ 0xFFFF) := by decide

/-- The same rates for `INIT`. -/
theorem witness_StartUpCompletes :
    (State.reset.mainPos = .first ∧ 8000000#32 ≠ 0#32 ∧
      1 ≤ State.reset.params.clkHz / (8000000#32).toNat ∧
      State.reset.params.clkHz / (8000000#32).toNat ≤ 0xFFFF) ∧
    ((clocked 65535).mainPos = .first ∧ 1#32 ≠ 0#32 ∧
      1 ≤ (clocked 65535).params.clkHz / (1#32).toNat ∧
      (clocked 65535).params.clkHz / (1#32).toNat ≤ 0xFFFF) := by decide

/-- A rate of 0, the first divisors outside the range, and the autonomous variant. -/
theorem witness_CommandsRefused :
    State.reset.mainPos = .first ∧
    (8000001#32 ≠ 0#32 ∧ State.reset.params.clkHz / (8000001#32).toNat = 0) ∧
    ((clocked 65536).mainPos = .first ∧ 1#32 ≠ 0#32 ∧
      0xFFFF < (clocked 65536).params.clkHz / (1#32).toNat) ∧
    (State.resetWith auto []).params.echoPolicy = .autonomous := by decide

/-- A byte in `rxCell`, the cooperative variant, `b` received. -/
def received : State :=
  { configured with mem := [(0x20000000, 0x41#8)], rxComplete := true }

/-- With a byte in `rxCell`, and with none. -/
theorem witness_MainlineReads :
    (received.params.echoPolicy = .cooperative ∧ received.mainPos = .first ∧
      received.params.inRam received.params.rxCellAddr ∧
      received.byteAt received.params.rxCellAddr = some 0x41#8) ∧
    (configured.params.echoPolicy = .cooperative ∧ configured.mainPos = .first ∧
      configured.byteAt configured.params.rxCellAddr = none) := by decide

/-- `s` with `TX_WAIT_MODE = ENBIT`. -/
def enbit (s : State) : State := { s with params := { Params.standard with txWaitMode := .enbit } }

/-- No transmit in flight, by each of the two tests. -/
theorem witness_StartTransmitCompletes :
    (received.params.echoPolicy = .cooperative ∧ received.mainPos = .first ∧
      received.params.inRam received.params.txCellAddr ∧
      received.params.txWaitMode = .flag ∧ received.txDone = true) ∧
    ((enbit received).params.echoPolicy = .cooperative ∧ (enbit received).mainPos = .first ∧
      (enbit received).params.inRam (enbit received).params.txCellAddr ∧
      (enbit received).params.txWaitMode = .enbit ∧
      (enbit received).tx.ccr.getLsbD 0 = false) := by decide

/-- A transmit in flight, by each of the two tests, at the first step and in the spin. -/
theorem witness_StartTransmitSpins :
    (let s := { armedTx with txDone := false };
      s.params.echoPolicy = .cooperative ∧ s.mainPos = .first ∧ s.params.txWaitMode = .flag ∧
      s.txDone = false) ∧
    (let s := enbit { armedTx with main := .running 0x520000000000000066#72 (.stx .w1) .fresh };
      s.params.echoPolicy = .cooperative ∧ s.mainPos = .stx .w1 ∧
      s.params.txWaitMode = .enbit ∧ s.tx.ccr.getLsbD 0 = true) := by decide

/-- Nothing received; a byte received and no transmit in flight. -/
theorem witness_MainLoopTurn :
    (configured.params.echoPolicy = .cooperative ∧ configured.mainPos = .first ∧
      configured.rxComplete = false) ∧
    (received.params.echoPolicy = .cooperative ∧ received.mainPos = .first ∧
      received.rxComplete = true ∧ received.byteAt received.params.rxCellAddr = some 0x41#8 ∧
      received.params.inRam received.params.rxCellAddr ∧
      received.params.inRam received.params.txCellAddr ∧
      received.params.txWaitMode = .flag ∧ received.txDone = true) := by decide

/-- An idle `MAIN` with a word to come, a running one, and an idle one with none. -/
theorem witness_HostGivesWord :
    (let s := turnOf .host { State.reset with hostWords := [0x530000000000000000#72] };
      s.faultMark = none ∧ s.refusedMark = none ∧ s.nextTurn = .host ∧ s.main = .idle ∧
      s.hostWords = [0x530000000000000000#72]) ∧
    (let s := turnOf .host
        { State.reset with main := .running 0x530000000000000000#72 .first .fresh };
      s.faultMark = none ∧ s.refusedMark = none ∧ s.nextTurn = .host ∧
      s.main = .running 0x530000000000000000#72 .first .fresh) ∧
    (let s := turnOf .host State.reset;
      s.faultMark = none ∧ s.refusedMark = none ∧ s.nextTurn = .host ∧ s.main = .idle ∧
      s.hostWords = []) := by decide

/-- `H_DMA` at its first step, launched with `p`, with the flags given. -/
def serving (p : Params) (rxFlag txFlag : Bool) : State :=
  { received with
    params := p
    rxComplete := false
    rx := { configured.rx with ndt := 0#16, tcif := rxFlag }
    tx := { armedTx.tx with ndt := 0#16, tcif := txFlag }
    hDma := .active .d1 .fresh }

/-- The transmit completion pending alone, both pending, none pending, in both variants. -/
theorem witness_HandlerServesTransmit :
    (Params.standard.Wf ∧ auto.Wf) ∧
    ∀ rxFlag txFlag : Bool,
      ((serving .standard rxFlag txFlag).hDma = .active .d1 .fresh ∧
        (serving .standard rxFlag txFlag).rx.tcif = rxFlag ∧
        (serving .standard rxFlag txFlag).tx.tcif = txFlag) ∧
      ((serving auto rxFlag txFlag).hDma = .active .d1 .fresh ∧
        (serving auto rxFlag txFlag).rx.tcif = rxFlag ∧
        (serving auto rxFlag txFlag).tx.tcif = txFlag) :=
  ⟨by decide, fun _ _ => ⟨⟨rfl, rfl, rfl⟩, rfl, rfl, rfl⟩⟩

/-- At `d5`, with a receive completion and without one. -/
theorem witness_HandlerServesTransmit_second_test :
    (let s := { bothFlags with hDma := .active .d5 .fresh };
      s.params.Wf ∧ s.hDma = .active .d5 .fresh ∧ s.rx.tcif = true) ∧
    (let s := { configured with hDma := .active .d5 .fresh };
      s.params.Wf ∧ s.hDma = .active .d5 .fresh ∧ s.rx.tcif = false) := by decide

/-- The receive completion pending, alone and with the other, cooperative. -/
theorem witness_HandlerServesReceiveCooperative :
    ∀ other ∈ [false, true], (let s := serving .standard true other;
      s.params.Wf ∧ s.params.echoPolicy = .cooperative ∧ s.hDma = .active .d1 .fresh ∧
      s.rx.tcif = true ∧ s.tx.tcif = other) := by decide

/-- The receive completion pending, alone and with the other (P8), autonomous, with a byte in
`rxCell`. -/
theorem witness_HandlerServesReceiveAutonomous :
    ∀ other ∈ [false, true], (let s := serving auto true other;
      s.params.Wf ∧ s.params.echoPolicy = .autonomous ∧ s.hDma = .active .d1 .fresh ∧
      s.rx.tcif = true ∧ s.tx.tcif = other ∧
      s.byteAt s.params.rxCellAddr = some 0x41#8) := by decide

/-- P8, R265: a receive completion that lands after `d1` is seen at `d5`, whatever `d1` read. -/
theorem test_dma_second_test_reads_afresh :
    after (dmaRun { bothFlags with hDma := .active .d5 .fresh })
      (·.hDma) = some (.active .d6 { Temps.fresh with s := 0x330#32 }) := by decide

/-- All four error flags set, at every position of `H_ERR`. -/
theorem witness_ErrorHandlerClears (pos : ErrPos) :
    { allErrors with hErr := .active pos .fresh }.hErr = .active pos .fresh ∧
    allErrors.sl.ore = true ∧ allErrors.sl.fe = true ∧ allErrors.sl.nf = true ∧
    allErrors.sl.pe = true := ⟨rfl, rfl, rfl, rfl, rfl⟩

/-- Both lines due; `H_DMA` active; only the error line due; only `H_ERR` active; nothing due and
`MAIN` running, and idle. -/
theorem witness_InterruptEntry :
    (let s := turnOf (.cpu .runMain) { bothFlags with sl := allErrors.sl };
      s.faultMark = none ∧ s.refusedMark = none ∧ s.nextTurn = .cpu .runMain ∧
      s.params.irqSlack = .urgent ∧ s.irqDma = true ∧ s.ienDma = true ∧ s.hDma = .inactive) ∧
    (let s := turnOf (.cpu .runMain)
        { bothFlags with sl := allErrors.sl, hDma := .active .d1 .fresh };
      s.faultMark = none ∧ s.refusedMark = none ∧ s.nextTurn = .cpu .runMain ∧
      s.params.irqSlack = .urgent ∧ s.hDma = .active .d1 .fresh) ∧
    (let s := turnOf (.cpu .runMain) allErrors;
      s.faultMark = none ∧ s.refusedMark = none ∧ s.nextTurn = .cpu .runMain ∧
      s.params.irqSlack = .urgent ∧ s.irqDma = false ∧ s.hDma = .inactive ∧
      s.sl.irqErr = true ∧ s.ienErr = true ∧ s.hErr = .inactive) ∧
    (let s := turnOf (.cpu .runMain) { allErrors with hErr := .active .e4 .fresh };
      s.faultMark = none ∧ s.refusedMark = none ∧ s.nextTurn = .cpu .runMain ∧
      s.params.irqSlack = .urgent ∧ s.irqDma = false ∧ s.hDma = .inactive ∧
      s.hErr = .active .e4 .fresh) ∧
    (let s := holds 0x530000000000000000#72 configured;
      s.faultMark = none ∧ s.refusedMark = none ∧ s.nextTurn = .cpu .runMain ∧
      s.params.irqSlack = .urgent ∧ s.irqDma = false ∧ s.hDma = .inactive ∧
      s.sl.irqErr = false ∧ s.hErr = .inactive ∧
      s.main = .running 0x530000000000000000#72 .first .fresh ∧
      decodeTableWord 72 0x530000000000000000 = some .mloop) ∧
    (let s := turnOf (.cpu .runMain) configured;
      s.faultMark = none ∧ s.refusedMark = none ∧ s.nextTurn = .cpu .runMain ∧
      s.params.irqSlack = .urgent ∧ s.irqDma = false ∧ s.hDma = .inactive ∧
      s.sl.irqErr = false ∧ s.hErr = .inactive ∧ s.main = .idle) := by decide

/-- Each handler at its return. -/
theorem witness_HandlerReturn :
    (let s := turnOf (.cpu .runMain) { bothFlags with hDma := .active .ret .fresh };
      s.faultMark = none ∧ s.refusedMark = none ∧ s.nextTurn = .cpu .runMain ∧
      s.hDma = .active .ret .fresh) ∧
    (let s := turnOf (.cpu .runMain) { allErrors with hErr := .active .ret .fresh };
      s.faultMark = none ∧ s.refusedMark = none ∧ s.nextTurn = .cpu .runMain ∧
      s.hErr = .active .ret .fresh ∧ s.hDma = .inactive ∧ s.params.irqSlack = .urgent ∧
      s.irqDma = false) := by decide

/-- `H_DMA` and `H_ERR` active, `MAIN` running. -/
def nested : State :=
  { holds 0x530000000000000000#72 bothFlags with
    hDma := .active .d1 .fresh, hErr := .active .e3 .fresh }

/-- A `CPU` step with both handlers active. -/
theorem witness_PreemptedContextsKeepState :
    nested.nextTurn = .cpu .runMain ∧ (∃ t, step nested = .next t) ∧
    nested.hDma ≠ .inactive ∧ nested.hErr ≠ .inactive :=
  ⟨rfl, ⟨_, rfl⟩, by decide, by decide⟩

/-- The invariant holds of the configured state with a byte waiting, and the next turn transfers
it. -/
theorem inv_waiting : Inv (turnOf (.ch .rx) waiting) where
  params := by decide
  canonical := by decide
  inRam := by decide
  rx := ⟨by decide, by decide, by decide⟩
  tx := ⟨by decide, by decide, by decide⟩
  cr1 := by decide
  cr3 := by decide
  oneMark := by decide
  variant := fun _ _ h => by cases h
  noFlags := by decide

/-- A transfer from a state with the invariant. -/
theorem witness_EveryStepKeepsInvariant :
    Inv (turnOf (.ch .rx) waiting) ∧ ∃ t, step (turnOf (.ch .rx) waiting) = .next t :=
  ⟨inv_waiting, _, rfl⟩

/-- The receive channel is Armed, the transmit channel Disabled. -/
theorem witness_ExactlyOneChannelState :
    Inv (turnOf (.ch .rx) waiting) ∧ waiting.rx.armed = true ∧ waiting.tx.disabled = true :=
  ⟨inv_waiting, by decide, by decide⟩

/-- A step with both interrupts enabled. -/
theorem witness_EnablesAndParametersPersist :
    (∃ t, step (turnOf .host configured) = .next t) ∧ (turnOf .host configured).ienDma = true ∧
    (turnOf .host configured).ienErr = true := ⟨⟨_, rfl⟩, rfl, rfl⟩

/-- A step of `SLRX` that takes a frame. -/
theorem witness_WiresMoveByTheirOwnSteps :
    ∃ t, step (arrives ⟨0x41#8, false, false, false⟩ configured) = .next t ∧ t.rxWire = [] :=
  ⟨_, rfl, by decide⟩

/-- A transfer that writes `rxCell`, `MAIN` idle. -/
theorem witness_OnlyCellsAreWritten :
    Inv (turnOf (.ch .rx) waiting) ∧ (∃ t, step (turnOf (.ch .rx) waiting) = .next t) ∧
    (∀ w pos t a b, (turnOf (.ch .rx) waiting).main = .running w pos t →
      decode (turnOf (.ch .rx) waiting).params w ≠ .ok (.wr8Mem a b)) ∧
    0x20000001#32 ≠ waiting.params.rxCellAddr ∧ 0x20000001#32 ≠ waiting.params.txCellAddr :=
  ⟨inv_waiting, ⟨_, rfl⟩, (fun _ _ _ _ _ h => by cases h), by decide, by decide⟩

/-- A step of the transmitter with all error flags set. -/
theorem witness_OnlyTheCpuClearsErrorFlags :
    (∃ t, step (turnOf .sltx allErrors) = .next t) ∧
    (∀ pick, (turnOf .sltx allErrors).nextTurn ≠ .cpu pick) ∧ allErrors.sl.ore = true ∧
    allErrors.sl.fe = true ∧ allErrors.sl.nf = true ∧ allErrors.sl.pe = true :=
  ⟨⟨_, rfl⟩, (fun _ h => by cases h), rfl, rfl, rfl, rfl⟩

/-- A frame arrives right after reset (V-R7). -/
theorem witness_NothingBeforeConfiguration :
    let s := arrives ⟨0x41#8, false, false, false⟩ State.reset;
    s.sl.cr1.getLsbD 0 = false ∧ s.ienDma = false ∧ s.ienErr = false ∧ s.hDma = .inactive ∧
    s.hErr = .inactive ∧ s.main = .idle ∧ s.hostWords = [] ∧ ∃ t, step s = .next t :=
  ⟨by decide, rfl, rfl, rfl, rfl, rfl, rfl, _, rfl⟩

/-- The configured autonomous machine at rest, one frame on the wire, and the schedule of P1. -/
def echoStart : State :=
  { configured with
    params := auto
    rxWire := [⟨0x41#8, false, false, false⟩]
    sched := [.slrx, .ch .rx] ++ List.replicate 21 (.cpu .runMain) ++ [.ch .tx] ++
      List.replicate 7 (.cpu .runMain) ++ [.sltx] ++ [] }

/-- It has the invariant and meets the rest of the hypotheses. -/
theorem witness_AutonomousEcho :
    Inv echoStart ∧ echoStart.params.echoPolicy = .autonomous ∧
    echoStart.params.irqSlack = .urgent ∧ echoStart.faultMark = none ∧
    echoStart.refusedMark = none ∧ echoStart.rxWire = ⟨0x41#8, false, false, false⟩ :: [] ∧
    echoStart.sched = [.slrx, .ch .rx] ++ List.replicate 21 (.cpu .runMain) ++ [.ch .tx] ++
      List.replicate 7 (.cpu .runMain) ++ [.sltx] ++ [] ∧
    echoStart.sl.cr1 = 0x10D#32 ∧ echoStart.sl.cr3 = 0xC1#32 ∧ echoStart.sl.ore = false ∧
    echoStart.sl.fe = false ∧ echoStart.sl.nf = false ∧ echoStart.sl.pe = false ∧
    echoStart.sl.rxne = false ∧ echoStart.sl.txe = true ∧ echoStart.ienDma = true ∧
    echoStart.hDma = .inactive ∧ echoStart.hErr = .inactive ∧ echoStart.rx.ccr = 3#32 ∧
    echoStart.rx.ndt = 1#16 ∧ echoStart.rx.tcif = false ∧
    echoStart.tx.ccr.getLsbD 0 = false ∧ echoStart.tx.tcif = false :=
  ⟨⟨by decide, by decide, by decide, ⟨by decide, by decide, by decide⟩,
      ⟨by decide, by decide, by decide⟩, by decide, by decide, by decide,
      (fun _ _ h => by cases h), by decide⟩,
    by decide⟩

/-! ## Spacing and fairness -/

/-- What the observer of R374 remembers after the step from `s`. -/
def echoAfter (e : Echo) (s : State) : Option Echo := after (step s) (e.after s)

/-- R374: a stored frame starts an echo, a marked one does not. -/
theorem test_echo_starts :
    echoAfter .idle (arrives ⟨0x41#8, false, false, false⟩ configured) =
      some (.pending 0x41#8 .received) ∧
    echoAfter .idle (arrives ⟨0x41#8, true, false, false⟩ configured) = some .idle := by decide

/-- R374: the service of another byte's completion, at `d2` and at its end, does not end the echo. -/
theorem test_echo_own_completion_only :
    echoAfter (.pending 0x41#8 .moved)
      (turnOf (.cpu .runMain) { bothFlags with hDma := .active .d2 .fresh }) =
      some (.pending 0x41#8 .moved) ∧
    echoAfter (.pending 0x41#8 .moved)
      (turnOf (.cpu .runMain) { bothFlags with hDma := .active (.d4 .q2) .fresh }) =
      some (.pending 0x41#8 .moved) ∧
    echoAfter (.pending 0x41#8 .served)
      (turnOf (.cpu .runMain) { bothFlags with hDma := .active (.d4 .q2) .fresh }) =
      some .idle := by decide

/-- A run of one arrival at an empty receiver is spaced, and no byte waits before it. -/
theorem witness_spaced_no_overrun :
    let s := arrives ⟨0x41#8, false, false, false⟩ configured;
    ∃ t, IsRun [s, t] ∧ spaced .idle [s, t] = true ∧ Echo.idle.covers s ∧ s.sl.ore = false :=
  ⟨_, ⟨rfl, trivial⟩, by decide, (fun h => by cases h), rfl⟩

/-- A byte waits in `SL_TDR`. -/
def unsent : State := { configured with sl := { configured.sl with tdr := 0x41#8, txe := false } }

/-- R381: along the rotation, which is weakly fair, a waiting byte is sent. -/
theorem witness_weaklyFair_emits :
    ∃ m, 0 ≤ m ∧ (runOn roundRobin unsent m).hasStep .sltx = false :=
  weaklyFair_emits roundRobin unsent (weaklyFair_roundRobin _) 0

end Sys2Proof.Tests
end

/-!
The shapes of a step, said once: what a `CPU` micro-step does to the registers, the memory and the
flags (`Access`: the model makes at most one per micro-step), what it does to the
positions of the contexts (`CpuMove`), and what a turn of any agent does (`TurnMove`).  The rules of
the whole machine (spec/10_state.md) are then read off these shapes.
-/

namespace Sys2Proof.Machine

/-! ## The shapes -/

/-- `H_DMA`, where active, is at a position of the variant that is built (R260). -/
def State.dmaInVariant (s : State) : Prop :=
  ∀ pos t, s.hDma = .active pos t → pos.inVariant s.params.echoPolicy = true

/-- What one access of a `CPU` micro-step makes of the state, with what the access has checked.  The
hand-off flags are written in the cooperative variant only, as long as `H_DMA` is where its variant
allows. -/
inductive Access (s : State) : State → Prop
  | none : Access s s
  | ccr (c : Role) (w : Word) (hr : w &&& ~~~ccrMask = 0#32)
      (hlive : (s.chan c).en = true → w &&& ~~~ccrLiveMask = rdCcr c s &&& ~~~ccrLiveMask)
      (henable : (s.chan c).en = false → w.getLsbD 0 = true →
        legalConfig s.params c (s.chan c) w = true ∧ (s.chan c).ndt.toNat ≤ 1) :
      Access s (s.setChan c { s.chan c with ccr := w })
  | whileDisabled (c : Role) (n : BitVec 16) (par mar : Word) (he : (s.chan c).en = false) :
      Access s (s.setChan c { s.chan c with ndt := n, cpar := par, cmar := mar })
  | clearCompletion (w : Word) : Access s (wrDmaIfcr w s)
  | cr1 (w : Word) (hr : w &&& ~~~cr1Mask = 0#32) :
      Access s { s with sl := { s.sl with cr1 := w } }
  | cr3 (w : Word) (hr : w &&& ~~~cr3Mask = 0#32) :
      Access s { s with sl := { s.sl with cr3 := w } }
  | divisor (d : BitVec 16) : Access s { s with sl := { s.sl with div := d } }
  | clearErrors (w : Word) : Access s (wrSlIcr w s)
  | takeRdr : Access s (takeRdr s)
  | putTdr (b : Byte) : Access s (putTdr b s)
  | store (a : Word) (b : Byte) (hr : s.params.inRam a) :
      Access s { s with mem := Memory.set s.mem a.toNat b }
  | handOff (rc td : Bool) (hv : s.dmaInVariant → s.params.echoPolicy = .cooperative) :
      Access s { s with rxComplete := rc, txDone := td }
  | enableDma : Access s { s with ienDma := true }
  | enableErr : Access s { s with ienErr := true }

/-- What one step of the `CPU` makes of the state: an access, and a new position of one context. -/
inductive CpuMove (s : State) : State → Prop
  | pass : CpuMove s s
  | main {u : State} (m : MainCtx) (r : List Result) (ha : Access s u) :
      CpuMove s { u with main := m, results := r }
  | dma {u : State} (h : Handler DmaPos) (ha : Access s u)
      (hv : s.dmaInVariant →
        ∀ pos t, h = .active pos t → pos.inVariant s.params.echoPolicy = true) :
      CpuMove s { u with hDma := h }
  | err {u : State} (h : Handler ErrPos) (ha : Access s u) : CpuMove s { u with hErr := h }

/-- What one turn makes of the state that has taken it from its schedule. -/
inductive TurnMove (s : State) : Turn → State → Prop
  | pass (turn : Turn) : TurnMove s turn s
  | stopFault (turn : Turn) (r : Fault) : TurnMove s turn { s with faultMark := some r }
  | stopRefusal (turn : Turn) (r : Refusal) : TurnMove s turn { s with refusedMark := some r }
  | transfer (c : Role) {t : State} (hx : xfer c s = .next t) : TurnMove s (.ch c) t
  | arrival (f : Frame) (rest : List Frame) (hw : s.rxWire = f :: rest) :
      TurnMove s .slrx { s with rxWire := rest, sl := s.sl.receive s.params.oreBlocksRx f }
  | emission (hue : s.sl.ue = true) (hte : s.sl.te = true) (htxe : s.sl.txe = false) :
      TurnMove s .sltx { s with txLine := s.txLine ++ [s.sl.tdr], sl := { s.sl with txe := true } }
  | word (m : MainCtx) (ws : List OpWord) : TurnMove s .host { s with main := m, hostWords := ws }
  | cpu (pick : CpuPick) {t : State} (hm : CpuMove s t) : TurnMove s (.cpu pick) t

/-! ## Every access is of its shape -/

theorem wrCcr_access {c : Role} {w : Word} {s t : State} (h : wrCcr c w s = .next t) :
    Access s t := by
  obtain ⟨hr, hlive, henable, rfl⟩ := wrCcr_next h
  exact .ccr c w hr hlive henable

theorem wrCndtr_access {c : Role} {w : Word} {s t : State} (h : wrCndtr c w s = .next t) :
    Access s t := by
  obtain ⟨-, he, rfl⟩ := wrCndtr_next h
  exact .whileDisabled c _ _ _ he

theorem wrCpar_access {c : Role} {w : Word} {s t : State} (h : wrCpar c w s = .next t) :
    Access s t := by
  obtain ⟨he, rfl⟩ := whileDisabled_next h
  exact .whileDisabled c _ _ _ he

theorem wrCmar_access {c : Role} {w : Word} {s t : State} (h : wrCmar c w s = .next t) :
    Access s t := by
  obtain ⟨he, rfl⟩ := whileDisabled_next h
  exact .whileDisabled c _ _ _ he

theorem wrSlCr1_access {w : Word} {s t : State} (h : wrSlCr1 w s = .next t) : Access s t := by
  obtain ⟨hr, rfl⟩ := wrSlCr1_next h
  exact .cr1 w hr

theorem wrSlCr3_access {w : Word} {s t : State} (h : wrSlCr3 w s = .next t) : Access s t := by
  obtain ⟨hr, rfl⟩ := wrSlCr3_next h
  exact .cr3 w hr

theorem wrSlBrr_access {w : Word} {s t : State} (h : wrSlBrr w s = .next t) : Access s t := by
  obtain ⟨-, rfl⟩ := wrSlBrr_next h
  exact .divisor _

theorem wrSlTdr32_access {w : Word} {s t : State} (h : wrSlTdr32 w s = .next t) : Access s t := by
  obtain ⟨-, rfl⟩ := wrSlTdr32_next h
  exact .putTdr _

theorem memWrite8_access {a : Word} {b : Byte} {s t : State} (h : memWrite8 a b s = .next t) :
    Access s t := by
  obtain ⟨hr, rfl⟩ := memWrite8_next h
  exact .store a b hr

/-! ## One micro-step of a sequence is one access -/

theorem armStep_access {c : Role} {a : ArmStep} {t x : Temps} {k : Option ArmStep} {s s' : State}
    (h : armStep c a t s = .next (k, x, s')) : Access s s' := by
  cases a
  case a1 => cases h; exact .none
  all_goals
    obtain ⟨u, hu, h'⟩ := andThen_next (h : andThen _ _ = _)
    cases h'
  case a2 | a6 | a7 => exact wrCcr_access hu
  case a3 => exact wrCpar_access hu
  case a4 => exact wrCmar_access hu
  case a5 => exact wrCndtr_access hu

theorem disarmStep_access {c : Role} {q : DisarmStep} {t x : Temps} {k : Option DisarmStep}
    {s s' : State} (h : disarmStep c q t s = .next (k, x, s')) : Access s s' := by
  cases q with
  | q1 => cases h; exact .none
  | q2 =>
    obtain ⟨u, hu, h'⟩ := andThen_next (h : andThen _ _ = _)
    cases h'
    exact wrCcr_access hu

theorem cfgStep_access {baud : Word} {c : CfgStep} {t x : Temps} {k : Option CfgStep} {s s' : State}
    (h : cfgStep baud c t s = .next (k, x, s')) : Access s s' := by
  cases c
  case c0 =>
    simp only [cfgStep] at h
    split at h
    · cases h
    · split at h <;> cases h
      exact .none
  case c5 | c7 => cases h; exact .none
  case c9 => cases h; exact .enableErr
  all_goals
    obtain ⟨u, hu, h'⟩ := andThen_next (by simpa only [cfgStep] using h)
    cases h'
  case c1 | c3 | c8 => exact wrSlCr1_access hu
  case c2 => exact wrSlBrr_access hu
  case c4 | c6 => exact wrSlCr3_access hu

theorem readStep_access {m : ReadStep} {t x : Temps} {k : Option ReadStep} {s s' : State}
    (hc : s.params.echoPolicy = .cooperative) (h : readStep m t s = .next (k, x, s')) :
    Access s s' := by
  cases m with
  | m1 =>
    obtain ⟨b, -, h'⟩ := andThen_next (h : andThen _ _ = _)
    cases h'
    exact .none
  | m2 => cases h; exact .handOff _ _ fun _ => hc

theorem stxStep_access {b : Byte} {p : StxStep} {t x : Temps} {k : Option StxStep} {s s' : State}
    (hc : s.params.echoPolicy = .cooperative) (h : stxStep b p t s = .next (k, x, s')) :
    Access s s' := by
  cases p with
  | w1 =>
    simp only [stxStep] at h
    split at h <;> (cases h; exact .none)
  | w2 => cases h; exact .handOff _ _ fun _ => hc
  | w3 =>
    obtain ⟨u, hu, h'⟩ := andThen_next (h : andThen _ _ = _)
    cases h'
    exact memWrite8_access hu
  | w4 a =>
    obtain ⟨⟨k', x', u⟩, hu, h'⟩ := andThen_next (h : andThen _ _ = _)
    cases h'
    exact armStep_access hu

/-! ## Every micro-step of `MAIN` is of its shape -/

theorem Access.mainAt {s u : State} (ha : Access s u) (i : Instr) (pos : MainPos) (x : Temps) :
    CpuMove s (u.mainAt i pos x) := by
  unfold State.mainAt
  split
  · exact .main _ u.results ha
  · exact .main _ u.results ha

theorem Access.endMain {s u : State} (ha : Access s u) (r : Result) : CpuMove s (u.endMain r) :=
  .main _ _ ha

theorem endWrite_move {o : Out State} {s t : State} (h : endWrite o = .next t)
    (ho : ∀ u, o = .next u → Access s u) : CpuMove s t := by
  obtain ⟨u, hu, rfl⟩ := endWrite_next h
  exact (ho u hu).endMain _

theorem mainStep_move {κ : Type} {i : Instr} {wrap : κ → MainPos} {result : Temps → Result}
    {run : Temps → State → Micro κ} {s t : State} (h : mainStep i wrap result run s = .next t)
    (hr : ∀ k x u, run s.mainTemps s = .next (k, x, u) → Access s u) : CpuMove s t := by
  obtain ⟨k, x, u, hu, rfl⟩ := mainStep_next h
  cases k with
  | none => exact (hr _ _ _ hu).endMain _
  | some k => exact (hr _ _ _ hu).mainAt _ _ _

/-- A command of the mainline surface goes on in the cooperative variant only (R284). -/
theorem cooperativeOnly_cooperative {s t : State} {o : Out State}
    (h : cooperativeOnly s o = .next t) : s.params.echoPolicy = .cooperative := by
  unfold cooperativeOnly at h
  cases hp : s.params.echoPolicy with
  | autonomous => rw [if_pos hp] at h; cases h
  | cooperative => rfl

theorem execArmTx_move {b : Byte} {s t : State} (h : execArmTx b s = .next t) : CpuMove s t := by
  unfold execArmTx at h
  split at h
  · exact mainStep_move h fun _ _ _ => armStep_access
  · obtain ⟨u, hu, h'⟩ := andThen_next h
    cases h'
    exact (memWrite8_access hu).mainAt _ _ _

theorem execInit_move {baud : Word} {s t : State} (h : execInit baud s = .next t) :
    CpuMove s t := by
  unfold execInit at h
  split at h
  · cases h; exact Access.enableDma.mainAt _ _ _
  · exact mainStep_move h fun _ _ _ => armStep_access
  · obtain ⟨⟨k, x, u⟩, hu, h'⟩ := andThen_next h
    cases k <;> (cases h'; exact (cfgStep_access hu).mainAt _ _ _)

theorem execMloop_move {s t : State} (h : execMloop s = .next t) : CpuMove s t := by
  have hc := cooperativeOnly_cooperative h
  have h := cooperativeOnly_next h
  split at h
  · obtain ⟨⟨k, x, u⟩, hu, h'⟩ := andThen_next h
    cases k <;> (cases h'; exact (readStep_access hc hu).mainAt _ _ _)
  · obtain ⟨⟨k, x, u⟩, hu, h'⟩ := andThen_next h
    cases k <;> (cases h'; exact (stxStep_access hc hu).mainAt _ _ _)
  · cases h; exact Access.none.mainAt _ _ _

/-- Every instruction makes one access and moves only `MAIN`. -/
theorem exec_move {i : Instr} {s t : State} (h : exec i s = .next t) : CpuMove s t := by
  cases i
  case wrDmaIfcr | clrtcRx | clrtcTx => cases h; exact (Access.clearCompletion _).endMain _
  case wrCcrRx | wrCcrTx => exact endWrite_move h fun _ => wrCcr_access
  case wrCndtrRx | wrCndtrTx => exact endWrite_move h fun _ => wrCndtr_access
  case wrCparRx | wrCparTx => exact endWrite_move h fun _ => wrCpar_access
  case wrCmarRx | wrCmarTx => exact endWrite_move h fun _ => wrCmar_access
  case wrSlCr1 => exact endWrite_move h fun _ => wrSlCr1_access
  case wrSlCr3 => exact endWrite_move h fun _ => wrSlCr3_access
  case wrSlBrr => exact endWrite_move h fun _ => wrSlBrr_access
  case wrSlIcr => cases h; exact (Access.clearErrors _).endMain _
  case rdSlRdr32 | rdSlRdr8 => cases h; exact Access.takeRdr.endMain _
  case wrSlTdr32 => exact endWrite_move h fun _ => wrSlTdr32_access
  case wrSlTdr8 => cases h; exact (Access.putTdr _).endMain _
  case rd8Mem =>
    obtain ⟨b, -, h'⟩ := andThen_next (h : andThen _ _ = _)
    cases h'
    exact Access.none.endMain _
  case wr8Mem => exact endWrite_move h fun _ => memWrite8_access
  case cfgLine =>
    simp only [exec, execCfgLine] at h
    exact mainStep_move h fun _ _ _ => cfgStep_access
  case init => exact execInit_move h
  case irqenDma => cases h; exact Access.enableDma.endMain _
  case irqenErr => cases h; exact Access.enableErr.endMain _
  case armRx =>
    simp only [exec, execArmRx] at h
    exact mainStep_move h fun _ _ _ => armStep_access
  case armTx => exact execArmTx_move h
  case disarmRx | disarmTx =>
    simp only [exec, execDisarmRx, execDisarmTx] at h
    exact mainStep_move h fun _ _ _ => disarmStep_access
  case davail => cases cooperativeOnly_next h; exact Access.none.endMain _
  case read =>
    exact mainStep_move (cooperativeOnly_next h) fun _ _ _ =>
      readStep_access (cooperativeOnly_cooperative h)
  case stx =>
    exact mainStep_move (cooperativeOnly_next h) fun _ _ _ =>
      stxStep_access (cooperativeOnly_cooperative h)
  case mloop => exact execMloop_move h
  all_goals cases h; exact Access.none.endMain _

/-! ## Every micro-step of a handler is of its shape -/

/-- `H_DMA` goes on to a position that the variant has if it has the one before (R262). -/
theorem Access.dmaAt {s u : State} {pos pos' : DmaPos} {x : Temps} (hp : s.hDma = .active pos x)
    (ha : Access s u) (x' : Temps)
    (hv : pos.inVariant s.params.echoPolicy = true → pos'.inVariant s.params.echoPolicy = true) :
    CpuMove s (u.dmaAt pos' x') :=
  .dma _ ha fun hs _ _ he => by cases he; exact hv (hs _ _ hp)

theorem dmaSeq_move {κ : Type} {wrap : κ → DmaPos} {pos done : DmaPos} {m : Micro κ} {x : Temps}
    {s t : State} (hp : s.hDma = .active pos x) (h : dmaSeq wrap done m = .next t)
    (hm : ∀ k x u, m = .next (k, x, u) → Access s u)
    (hw : ∀ k, (wrap k).inVariant s.params.echoPolicy = pos.inVariant s.params.echoPolicy)
    (hd : pos.inVariant s.params.echoPolicy = true → done.inVariant s.params.echoPolicy = true) :
    CpuMove s t := by
  obtain ⟨k, y, u, hu, rfl⟩ := dmaSeq_next h
  cases k with
  | none => exact (hm _ _ _ hu).dmaAt hp y hd
  | some k => exact (hm _ _ _ hu).dmaAt hp y (hw k).trans

/-- Where `H_DMA` is at a position of the cooperative variant, that variant is built. -/
theorem cooperative_of_dmaInVariant {s : State} {pos : DmaPos} {x : Temps}
    (hp : s.hDma = .active pos x)
    (hpos : pos.inVariant s.params.echoPolicy = decide (s.params.echoPolicy = .cooperative))
    (hv : s.dmaInVariant) : s.params.echoPolicy = .cooperative :=
  of_decide_eq_true (hpos.symm.trans (hv _ _ hp))

/-- Every micro-step of `H_DMA` makes one access and moves only `H_DMA`, to a position of its
variant. -/
theorem dmaStep_move {pos : DmaPos} {x : Temps} {s t : State} (hp : s.hDma = .active pos x)
    (h : dmaStep pos x s = .next t) : CpuMove s t := by
  cases pos
  case d1 | d5 => cases h; exact Access.none.dmaAt hp _ fun _ => by split <;> rfl
  case d2 | d6 =>
    cases h
    exact (Access.clearCompletion _).dmaAt hp _ fun _ => by
      cases s.params.echoPolicy <;> rfl
  case d3 =>
    cases h
    exact (Access.handOff s.rxComplete true (cooperative_of_dmaInVariant hp rfl)).dmaAt hp _
      fun _ => rfl
  case coop7 =>
    cases h
    exact (Access.handOff true s.txDone (cooperative_of_dmaInVariant hp rfl)).dmaAt hp _ id
  case d4 =>
    exact dmaSeq_move hp h (fun _ _ _ => disarmStep_access) (fun _ => rfl) fun _ => rfl
  case coop8 | auto10 =>
    exact dmaSeq_move hp h (fun _ _ _ => armStep_access) (fun _ => rfl) fun _ => rfl
  case auto9 => exact dmaSeq_move hp h (fun _ _ _ => armStep_access) (fun _ => rfl) id
  case auto7 =>
    obtain ⟨b, -, h'⟩ := andThen_next (h : andThen _ _ = _)
    cases h'
    exact Access.none.dmaAt hp _ id
  case auto8 =>
    obtain ⟨u, hu, h'⟩ := andThen_next (h : andThen _ _ = _)
    cases h'
    exact (memWrite8_access hu).dmaAt hp _ id
  case ret => cases h; exact .dma .inactive .none fun _ _ _ he => nomatch he

/-- Every micro-step of `H_ERR` makes one access and moves only `H_ERR`. -/
theorem errStep_move {pos : ErrPos} {x : Temps} {s t : State} (h : errStep pos x s = .next t) :
    CpuMove s t := by
  cases pos
  case e2 | e4 | e6 | e8 => cases h; exact .err _ (.clearErrors _)
  all_goals cases h; exact .err _ .none

theorem enter_move (h : HandlerId) (s : State) : CpuMove s (enter h s) := by
  cases h with
  | dma => exact .dma _ .none fun _ _ _ he => by cases he; rfl
  | err => exact .err _ .none

/-! ## Every turn is of its shape -/

theorem mainRun_move {s t : State} (h : mainRun s = .next t) : CpuMove s t := by
  unfold mainRun at h
  split at h
  · cases h; exact .pass
  · split at h
    · exact exec_move h
    · cases h

theorem dmaRun_move {s t : State} (h : dmaRun s = .next t) : CpuMove s t := by
  unfold dmaRun at h
  split at h
  · cases h; exact .pass
  · next hp => exact dmaStep_move hp h

theorem errRun_move {s t : State} (h : errRun s = .next t) : CpuMove s t := by
  unfold errRun at h
  split at h
  · cases h; exact .pass
  · exact errStep_move h

theorem cpuStep_move {pick : CpuPick} {s t : State} (h : cpuStep pick s = .next t) :
    CpuMove s t := by
  unfold cpuStep at h
  split at h
  · cases h; exact enter_move .dma s
  · exact dmaRun_move h
  · cases h; exact enter_move .err s
  · exact errRun_move h
  · exact mainRun_move h
  · cases h; exact .pass

theorem slrxStep_move (s : State) : TurnMove s .slrx (slrxStep s) := by
  unfold slrxStep
  split
  · exact .pass _
  · next f rest hw => exact .arrival f rest hw

theorem emitStep_move (s : State) : TurnMove s .sltx (emitStep s) := by
  unfold emitStep
  split
  · next h => exact .emission h.1 h.2.1 h.2.2
  · exact .pass _

theorem hostStep_move (s : State) : TurnMove s .host (hostStep s) := by
  unfold hostStep
  split
  · exact .word _ _
  · exact .pass _

theorem agentStep_move {turn : Turn} {s t : State} (h : agentStep turn s = .next t) :
    TurnMove s turn t := by
  cases turn with
  | ch c =>
    simp only [agentStep] at h
    split at h
    · exact .transfer c h
    · cases h; exact .pass _
  | slrx => cases h; exact slrxStep_move s
  | sltx => cases h; exact emitStep_move s
  | cpu pick => exact .cpu pick (cpuStep_move h)
  | host => cases h; exact hostStep_move s

/-- Everything a step of the machine can do: it starts with no mark set and is one turn. -/
theorem step_move {s t : State} (h : step s = .next t) :
    s.faultMark = none ∧ s.refusedMark = none ∧ TurnMove s.afterTurn s.nextTurn t := by
  obtain ⟨hf, hr, rfl⟩ := step_next h
  refine ⟨hf, hr, ?_⟩
  cases ho : agentStep s.nextTurn s.afterTurn with
  | next u => exact agentStep_move ho
  | fault r => exact .stopFault _ r
  | refused r => exact .stopRefusal _ r

/-! ## What an access and a `CPU` step leave as they were -/

theorem Access.params {s t : State} (h : Access s t) : t.params = s.params := by
  cases h <;> simp

theorem Access.rxWire {s t : State} (h : Access s t) : t.rxWire = s.rxWire := by
  cases h <;> simp

theorem Access.txLine {s t : State} (h : Access s t) : t.txLine = s.txLine := by
  cases h <;> simp

theorem Access.ienDma {s t : State} (h : Access s t) (hi : s.ienDma = true) : t.ienDma = true := by
  cases h <;> simp [hi]

theorem Access.ienErr {s t : State} (h : Access s t) (hi : s.ienErr = true) : t.ienErr = true := by
  cases h <;> simp [hi]

/-- No step of the `CPU` moves a frame or a byte of the line (R55). -/
theorem CpuMove.wires {s t : State} (h : CpuMove s t) :
    t.rxWire = s.rxWire ∧ t.txLine = s.txLine := by
  cases h with
  | pass => exact ⟨rfl, rfl⟩
  | main _ _ ha | dma _ ha _ | err _ ha => exact ⟨ha.rxWire, ha.txLine⟩

/-- No step of the `CPU` changes a launch parameter or clears an interrupt enable (R46, R384). -/
theorem CpuMove.persist {s t : State} (h : CpuMove s t) :
    t.params = s.params ∧ (s.ienDma = true → t.ienDma = true) ∧
    (s.ienErr = true → t.ienErr = true) := by
  cases h with
  | pass => exact ⟨rfl, id, id⟩
  | main _ _ ha | dma _ ha _ | err _ ha => exact ⟨ha.params, ha.ienDma, ha.ienErr⟩

/-! ## The invariant, part by part -/

/-- A channel that is off has nothing to keep but its reserved bits (R21). -/
theorem ChanInv.of_disabled {p : Params} {c : Role} {x : Chan}
    (hr : x.ccr &&& ~~~ccrMask = 0#32) (he : x.en = false) : ChanInv p c x where
  reserved := hr
  count h := by rw [he] at h; cases h
  bound h := by rw [he] at h; cases h

/-- `DIR` is none of the bits that may change while the channel is enabled (R145). -/
theorem dir_of_live {x : Chan} {w : Word}
    (h : w &&& ~~~ccrLiveMask = x.ccrRead &&& ~~~ccrLiveMask) :
    w.getLsbD 4 = x.ccr.getLsbD 4 := by
  have := congrArg (·.getLsbD 4) h
  simpa [Chan.ccrRead, ccrMask, ccrLiveMask] using this

/-- A write of `CCR` that passes the checks of R135 keeps the invariant of its channel. -/
theorem ChanInv.setCcr {p : Params} {c : Role} {x : Chan} (h : ChanInv p c x) {w : Word}
    (hr : w &&& ~~~ccrMask = 0#32)
    (hlive : x.en = true → w &&& ~~~ccrLiveMask = x.ccrRead &&& ~~~ccrLiveMask)
    (henable : x.en = false → w.getLsbD 0 = true →
      legalConfig p c x w = true ∧ x.ndt.toNat ≤ 1) :
    ChanInv p c { x with ccr := w } where
  reserved := hr
  count hw := by
    cases he : x.en with
    | true => exact h.count he
    | false => exact (henable he hw).2
  bound hw := by
    cases he : x.en with
    | true =>
      have hb := h.bound he
      unfold legalConfig at hb ⊢
      rwa [dir_of_live (hlive he)]
    | false => exact (henable he hw).1

/-- A transfer that is done leaves a count of 0 (R178). -/
theorem ChanInv.complete {p : Params} {c : Role} {x : Chan} (h : ChanInv p c x) :
    ChanInv p c x.complete where
  reserved := h.reserved
  count _ := Nat.zero_le 1
  bound := h.bound

/-- A write of `DMA_IFCR` touches nothing the invariant of a channel speaks of (R133). -/
theorem ChanInv.clearFlag {p : Params} {c : Role} {x : Chan} (h : ChanInv p c x) (w : Word) :
    ChanInv p c (x.clearFlag p c w) := ⟨h.reserved, h.count, h.bound⟩

theorem Inv.chan {s : State} (h : Inv s) (c : Role) : ChanInv s.params c (s.chan c) := by
  cases c with
  | rx => exact h.rx
  | tx => exact h.tx

theorem Inv.setChan {s : State} (h : Inv s) {c : Role} {x : Chan} (hx : ChanInv s.params c x) :
    Inv (s.setChan c x) := by
  cases c with
  | rx => exact { h with rx := hx }
  | tx => exact { h with tx := hx }

/-- A byte stored inside RAM leaves the memory canonical and inside RAM (R40, R76). -/
theorem Inv.store {s : State} (h : Inv s) {a : Word} (b : Byte) (hr : s.params.inRam a) :
    Inv { s with mem := Memory.set s.mem a.toNat b } :=
  { h with
    canonical := Memory.set_wf _ _ _ h.canonical
    inRam := fun x hx => by
      rcases Memory.mem_set _ _ _ _ hx with rfl | hx
      · exact hr
      · exact h.inRam x hx }

/-- A change of the serial line that keeps its two control registers keeps the invariant. -/
theorem Inv.setSl {s : State} (h : Inv s) {l : Serial} (h1 : l.cr1 = s.sl.cr1)
    (h3 : l.cr3 = s.sl.cr3) : Inv { s with sl := l } :=
  { h with
    cr1 := by rw [← h.cr1, ← h1]
    cr3 := by rw [← h.cr3, ← h3] }

/-- An arriving frame leaves the control registers (R228). -/
theorem receive_control (ob : Bool) (f : Frame) (l : Serial) :
    (l.receive ob f).cr1 = l.cr1 ∧ (l.receive ob f).cr3 = l.cr3 := by
  unfold Serial.receive
  split
  · exact ⟨rfl, rfl⟩
  · split
    · exact ⟨rfl, rfl⟩
    · dsimp only
      split
      · exact ⟨rfl, rfl⟩
      · split <;> exact ⟨rfl, rfl⟩

/-! ## The invariant, step by step -/

theorem Inv.afterTurn {s : State} (h : Inv s) : Inv s.afterTurn := by
  unfold State.afterTurn
  split <;> exact { h with }

/-- Every access keeps the invariant. -/
theorem Access.inv {s t : State} (ha : Access s t) (h : Inv s) : Inv t := by
  cases ha with
  | none => exact h
  | ccr c w hr hlive henable => exact h.setChan ((h.chan c).setCcr hr hlive henable)
  | whileDisabled c _ _ _ he => exact h.setChan (.of_disabled (h.chan c).reserved he)
  | clearCompletion w => exact { h with rx := h.rx.clearFlag w, tx := h.tx.clearFlag w }
  | cr1 w hr => exact { h with cr1 := hr }
  | cr3 w hr => exact { h with cr3 := hr }
  | divisor | clearErrors | takeRdr | putTdr => exact h.setSl rfl rfl
  | store a b hr => exact h.store b hr
  | handOff rc td hv =>
    exact { h with noFlags := fun ha => by rw [hv h.variant] at ha; cases ha }
  | enableDma | enableErr => exact { h with }

/-- Every step of the `CPU` keeps the invariant. -/
theorem CpuMove.inv {s t : State} (hm : CpuMove s t) (h : Inv s) : Inv t := by
  cases hm with
  | pass => exact h
  | main _ _ ha | err _ ha => exact { ha.inv h with }
  | dma hd ha hv =>
    exact { ha.inv h with
      variant := fun pos x he => by rw [ha.params]; exact hv h.variant pos x he }

/-- A transfer keeps the invariant: it writes a byte of RAM and leaves a count of 0 (R178). -/
theorem Inv.transfer {s t : State} {c : Role} (h : Inv s) (hx : xfer c s = .next t) : Inv t := by
  obtain ⟨-, hr, rfl⟩ | ⟨-, -, b, -, rfl⟩ := xfer_next hx
  · exact { (h.store s.sl.rdr hr).setSl (l := { s.sl with rxne := false }) rfl rfl with
      rx := h.rx.complete }
  · exact { h.setSl (l := { s.sl with tdr := b, txe := false }) rfl rfl with
      tx := h.tx.complete }

/-- Every turn of a machine with no mark keeps the invariant. -/
theorem TurnMove.inv {s t : State} {turn : Turn} (hm : TurnMove s turn t)
    (hf : s.faultMark = none) (hr : s.refusedMark = none) (h : Inv s) : Inv t := by
  cases hm with
  | pass => exact h
  | stopFault _ r => exact { h with oneMark := .inr hr }
  | stopRefusal _ r => exact { h with oneMark := .inl hf }
  | transfer c hx => exact h.transfer hx
  | arrival f rest hw =>
    have hc := receive_control s.params.oreBlocksRx f s.sl
    exact { h.setSl hc.1 hc.2 with }
  | emission => exact { h.setSl (l := { s.sl with txe := true }) rfl rfl with }
  | word => exact { h with }
  | cpu pick hm => exact hm.inv h

/-! ## What a turn leaves as it was -/

/-- A transfer moves no wire and leaves the parameters, the enables and the error flags. -/
theorem xfer_frame {s t : State} {c : Role} (hx : xfer c s = .next t) :
    t.params = s.params ∧ t.ienDma = s.ienDma ∧ t.ienErr = s.ienErr ∧
    t.rxWire = s.rxWire ∧ t.txLine = s.txLine ∧
    t.sl.ore = s.sl.ore ∧ t.sl.fe = s.sl.fe ∧ t.sl.nf = s.sl.nf ∧ t.sl.pe = s.sl.pe := by
  obtain ⟨-, -, rfl⟩ | ⟨-, -, b, -, rfl⟩ := xfer_next hx <;> simp

/-- No turn changes a launch parameter or clears an interrupt enable (R46, R384). -/
theorem TurnMove.persist {s t : State} {turn : Turn} (hm : TurnMove s turn t) :
    t.params = s.params ∧ (s.ienDma = true → t.ienDma = true) ∧
    (s.ienErr = true → t.ienErr = true) := by
  cases hm with
  | transfer c hx =>
    obtain ⟨hp, hd, he, -⟩ := xfer_frame hx
    exact ⟨hp, hd.trans, he.trans⟩
  | cpu pick hm => exact hm.persist
  | pass | stopFault | stopRefusal | arrival | emission | word => exact ⟨rfl, id, id⟩

/-- A frame leaves the wire in an arrival only (R228). -/
theorem TurnMove.rxWire {s t : State} {turn : Turn} (hm : TurnMove s turn t) :
    t.rxWire = s.rxWire ∨ turn = .slrx ∧ ∃ f, s.rxWire = f :: t.rxWire := by
  cases hm with
  | arrival f rest hw => exact .inr ⟨rfl, f, hw⟩
  | transfer c hx =>
    obtain ⟨-, -, -, hrx, -⟩ := xfer_frame hx
    exact .inl hrx
  | cpu pick hm => exact .inl hm.wires.1
  | pass | stopFault | stopRefusal | emission | word => exact .inl rfl

/-- A byte joins the line in an emission only (R230). -/
theorem TurnMove.txLine {s t : State} {turn : Turn} (hm : TurnMove s turn t) :
    t.txLine = s.txLine ∨ turn = .sltx ∧ s.sl.ue = true ∧ s.sl.te = true ∧ s.sl.txe = false ∧
      t.txLine = s.txLine ++ [s.sl.tdr] := by
  cases hm with
  | emission hue hte htxe => exact .inr ⟨rfl, hue, hte, htxe, rfl⟩
  | transfer c hx =>
    obtain ⟨-, -, -, -, htx, -⟩ := xfer_frame hx
    exact .inl htx
  | cpu pick hm => exact .inl hm.wires.2
  | pass | stopFault | stopRefusal | arrival | word => exact .inl rfl

/-- Every error flag of `l` that is set is set in `l'`. -/
def Serial.ErrorsStay (l l' : Serial) : Prop :=
  (l.ore = true → l'.ore = true) ∧ (l.fe = true → l'.fe = true) ∧
  (l.nf = true → l'.nf = true) ∧ (l.pe = true → l'.pe = true)

/-- An arriving frame sets error flags and clears none (R228, R232). -/
theorem receive_errorsStay (ob : Bool) (f : Frame) (l : Serial) :
    l.ErrorsStay (l.receive ob f) := by
  unfold Serial.receive
  split
  · exact ⟨id, id, id, id⟩
  · split
    · exact ⟨id, id, id, id⟩
    · dsimp only
      have hmarks : (l.fe = true → (l.fe || f.fe) = true) ∧
          (l.nf = true → (l.nf || f.nf) = true) ∧ (l.pe = true → (l.pe || f.pe) = true) := by
        simp +contextual
      split
      · exact ⟨id, hmarks⟩
      · split
        · exact ⟨fun _ => rfl, hmarks⟩
        · exact ⟨id, hmarks⟩

/-- No turn but the `CPU`'s clears an error flag: an arrival only sets them (R57, R232). -/
theorem TurnMove.errorsStay {s t : State} {turn : Turn} (hm : TurnMove s turn t)
    (hn : ∀ pick, turn ≠ .cpu pick) : s.sl.ErrorsStay t.sl := by
  cases hm with
  | transfer c hx =>
    obtain ⟨-, -, -, -, -, hore, hfe, hnf, hpe⟩ := xfer_frame hx
    exact ⟨hore.trans, hfe.trans, hnf.trans, hpe.trans⟩
  | arrival f rest hw => exact receive_errorsStay _ _ _
  | cpu pick hm => exact absurd rfl (hn pick)
  | pass | stopFault | stopRefusal | emission | word => exact ⟨id, id, id, id⟩

/-! ## The rules of the whole machine -/

/-- Settles O51: a step is one turn, and every turn of an unmarked machine keeps the invariant. -/
theorem everyStepKeepsInvariant : Obligations.EveryStepKeepsInvariant := by
  intro s t h hstep
  obtain ⟨hf, hr, hm⟩ := step_move hstep
  exact hm.inv (by simpa using hf) (by simpa using hr) h.afterTurn

/-- Settles O54, from what each turn keeps. -/
theorem enablesAndParametersPersist : Obligations.EnablesAndParametersPersist := by
  intro s t hstep
  obtain ⟨-, -, hm⟩ := step_move hstep
  simpa using hm.persist

/-- Settles O55: the two wires move in an arrival and in an emission only. -/
theorem wiresMoveByTheirOwnSteps : Obligations.WiresMoveByTheirOwnSteps := by
  intro s t hstep
  obtain ⟨-, -, hm⟩ := step_move hstep
  have hrx := hm.rxWire
  have htx := hm.txLine
  rw [afterTurn_rxWire] at hrx
  rw [afterTurn_txLine, afterTurn_sl] at htx
  exact ⟨hrx, htx⟩

/-- Settles O57, from the turns that are not the `CPU`'s. -/
theorem onlyTheCpuClearsErrorFlags : Obligations.OnlyTheCpuClearsErrorFlags := by
  intro s t hstep hncpu
  obtain ⟨-, -, hm⟩ := step_move hstep
  have hstay := hm.errorsStay hncpu
  rwa [afterTurn_sl] at hstay

end Sys2Proof.Machine

/-!
The memory (spec/20_memory.md): what the two memory instructions do, and which bytes a step can
change (`SameOutsideCells`).  A store of the model is a `WR8_MEM`, a store to `txCell` (`ARM_TX`,
`STX`, `d8` of the autonomous `H_DMA`), or the transfer of the receive channel, which under the
invariant goes to `rxCell`.
-/

namespace Sys2Proof.Machine

/-! ## The two memory instructions -/

theorem execWr8Mem_of_inRam {s : State} {a : Word} (b : Byte) (hr : s.params.inRam a) :
    execWr8Mem a b s =
      .next ({ s with mem := Memory.set s.mem a.toNat b }.endMain .nothing) := by
  unfold execWr8Mem endWrite
  rw [memWrite8_of_inRam b hr, andThen_of_next]

theorem execRd8Mem_of_byte {s : State} {a : Word} {b : Byte} (hr : s.params.inRam a)
    (hb : s.byteAt a = some b) : execRd8Mem a s = .next (s.endMain (.byte b)) := by
  unfold execRd8Mem
  rw [memRead8_of_byte hr hb, andThen_of_next]

theorem execRd8Mem_of_unwritten {s : State} {a : Word} (hr : s.params.inRam a)
    (hb : s.byteAt a = none) : execRd8Mem a s = .fault (.unwrittenRead a) := by
  unfold execRd8Mem
  rw [memRead8_of_unwritten hr hb, andThen_of_fault]

/-- Settles O22: the memory after is the one `MemWrite` makes, by the read-after-write laws. -/
theorem storeByteThenRead : Obligations.StoreByteThenRead := by
  intro s a b hr
  exact ⟨Memory.set s.mem a.toNat b, execWr8Mem_of_inRam b hr, byteAt_set_same s a b,
    fun x hx => byteAt_set_other s a x b hx⟩

/-- Settles O23, from the two things `MemRead` can answer for an address in RAM. -/
theorem loadByte : Obligations.LoadByte := by
  intro s a hr
  exact ⟨fun _ hb => execRd8Mem_of_byte hr hb, fun hb => execRd8Mem_of_unwritten hr hb⟩

/-! ## Memory outside the two cells -/

/-- Every address but the two cells reads in `t` as in `s`. -/
def SameOutsideCells (s t : State) : Prop :=
  ∀ x : Word, x ≠ s.params.rxCellAddr → x ≠ s.params.txCellAddr → t.byteAt x = s.byteAt x

theorem byteAt_of_mem {s t : State} (h : t.mem = s.mem) (x : Word) : t.byteAt x = s.byteAt x := by
  unfold State.byteAt
  rw [h]

/-- What leaves the memory as it was leaves every byte outside the cells. -/
theorem SameOutsideCells.of_mem {s t : State} (h : t.mem = s.mem) : SameOutsideCells s t :=
  fun x _ _ => byteAt_of_mem h x

/-- Only the memory of the later state matters. -/
theorem SameOutsideCells.congr_mem {s t u : State} (h : SameOutsideCells s u)
    (hm : t.mem = u.mem) : SameOutsideCells s t :=
  fun x hrx htx => (byteAt_of_mem hm x).trans (h x hrx htx)

/-- A store to the cell of a role changes that cell only (R76). -/
theorem SameOutsideCells.store_cell (s : State) (c : Role) (b : Byte) :
    SameOutsideCells s { s with mem := Memory.set s.mem (s.params.cellAddr c).toNat b } := by
  intro x hrx htx
  refine byteAt_set_other s _ x b ?_
  cases c with
  | rx => exact hrx
  | tx => exact htx

theorem memWrite8_txCell {b : Byte} {s t : State}
    (h : memWrite8 s.params.txCellAddr b s = .next t) : SameOutsideCells s t := by
  obtain ⟨-, rfl⟩ := memWrite8_next h
  exact .store_cell s .tx b

/-! ## The register writes leave the memory -/

theorem wrCcr_mem {c : Role} {w : Word} {s t : State} (h : wrCcr c w s = .next t) :
    t.mem = s.mem := by
  obtain ⟨-, -, -, rfl⟩ := wrCcr_next h
  exact setChan_mem s c _

theorem whileDisabled_mem {c : Role} {r : ChanReg} {x : Chan} {s t : State}
    (h : whileDisabled c r x s = .next t) : t.mem = s.mem := by
  obtain ⟨-, rfl⟩ := whileDisabled_next h
  exact setChan_mem s c x

theorem wrCndtr_mem {c : Role} {w : Word} {s t : State} (h : wrCndtr c w s = .next t) :
    t.mem = s.mem := by
  obtain ⟨-, -, rfl⟩ := wrCndtr_next h
  exact setChan_mem s c _

theorem wrSlCr1_mem {w : Word} {s t : State} (h : wrSlCr1 w s = .next t) : t.mem = s.mem := by
  obtain ⟨-, rfl⟩ := wrSlCr1_next h
  rfl

theorem wrSlCr3_mem {w : Word} {s t : State} (h : wrSlCr3 w s = .next t) : t.mem = s.mem := by
  obtain ⟨-, rfl⟩ := wrSlCr3_next h
  rfl

theorem wrSlBrr_mem {w : Word} {s t : State} (h : wrSlBrr w s = .next t) : t.mem = s.mem := by
  obtain ⟨-, rfl⟩ := wrSlBrr_next h
  rfl

theorem wrSlTdr32_mem {w : Word} {s t : State} (h : wrSlTdr32 w s = .next t) :
    t.mem = s.mem := by
  obtain ⟨-, rfl⟩ := wrSlTdr32_next h
  rfl

/-! ## The sequences -/

theorem armStep_mem {c : Role} {a : ArmStep} {x y : Temps} {k : Option ArmStep} {s t : State}
    (h : armStep c a x s = .next (k, y, t)) : t.mem = s.mem := by
  cases a
  case a1 => cases h; rfl
  all_goals
    obtain ⟨u, hu, h'⟩ := andThen_next (h : andThen _ _ = _)
    cases h'
  case a2 | a6 | a7 => exact wrCcr_mem hu
  case a3 | a4 => exact whileDisabled_mem hu
  case a5 => exact wrCndtr_mem hu

theorem disarmStep_mem {c : Role} {q : DisarmStep} {x y : Temps} {k : Option DisarmStep}
    {s t : State} (h : disarmStep c q x s = .next (k, y, t)) : t.mem = s.mem := by
  cases q with
  | q1 => cases h; rfl
  | q2 =>
    obtain ⟨u, hu, h'⟩ := andThen_next (h : andThen _ _ = _)
    cases h'
    exact wrCcr_mem hu

theorem cfgStep_mem {baud : Word} {c : CfgStep} {x y : Temps} {k : Option CfgStep} {s t : State}
    (h : cfgStep baud c x s = .next (k, y, t)) : t.mem = s.mem := by
  cases c
  case c0 =>
    simp only [cfgStep] at h
    split at h
    · cases h
    · split at h <;> cases h
      rfl
  case c5 | c7 | c9 => cases h; rfl
  all_goals
    obtain ⟨u, hu, h'⟩ := andThen_next (by simpa only [cfgStep] using h)
    cases h'
  case c1 | c3 | c8 => exact wrSlCr1_mem hu
  case c2 => exact wrSlBrr_mem hu
  case c4 | c6 => exact wrSlCr3_mem hu

theorem readStep_mem {m : ReadStep} {x y : Temps} {k : Option ReadStep} {s t : State}
    (h : readStep m x s = .next (k, y, t)) : t.mem = s.mem := by
  cases m with
  | m1 =>
    obtain ⟨b, -, h'⟩ := andThen_next (h : andThen _ _ = _)
    cases h'
    rfl
  | m2 => cases h; rfl

/-- `STX` stores to `txCell` at `w3`, and nowhere else (R282). -/
theorem stxStep_cells {b : Byte} {p : StxStep} {x y : Temps} {k : Option StxStep} {s t : State}
    (h : stxStep b p x s = .next (k, y, t)) : SameOutsideCells s t := by
  cases p with
  | w1 =>
    simp only [stxStep] at h
    split at h <;> (cases h; exact .of_mem rfl)
  | w2 => cases h; exact .of_mem rfl
  | w3 =>
    obtain ⟨u, hu, h'⟩ := andThen_next (h : andThen _ _ = _)
    cases h'
    exact memWrite8_txCell hu
  | w4 a =>
    obtain ⟨⟨k', x', u⟩, hu, h'⟩ := andThen_next (h : andThen _ _ = _)
    cases h'
    exact .of_mem (armStep_mem hu)

/-! ## `MAIN` -/

theorem SameOutsideCells.mainAt {s u : State} (h : SameOutsideCells s u) (i : Instr)
    (pos : MainPos) (x : Temps) : SameOutsideCells s (u.mainAt i pos x) :=
  h.congr_mem (mainAt_mem u i pos x)

theorem SameOutsideCells.endMain {s u : State} (h : SameOutsideCells s u) (r : Result) :
    SameOutsideCells s (u.endMain r) :=
  h.congr_mem rfl

theorem endWrite_cells {o : Out State} {s t : State} (h : endWrite o = .next t)
    (ho : ∀ u, o = .next u → u.mem = s.mem) : SameOutsideCells s t := by
  obtain ⟨u, hu, rfl⟩ := endWrite_next h
  exact (SameOutsideCells.of_mem (ho u hu)).endMain _

theorem mainStep_cells {κ : Type} {i : Instr} {wrap : κ → MainPos} {result : Temps → Result}
    {run : Temps → State → Micro κ} {s t : State} (h : mainStep i wrap result run s = .next t)
    (hr : ∀ k x u, run s.mainTemps s = .next (k, x, u) → SameOutsideCells s u) :
    SameOutsideCells s t := by
  obtain ⟨k, x, u, hu, rfl⟩ := mainStep_next h
  cases k with
  | none => exact (hr _ _ _ hu).endMain _
  | some k => exact (hr _ _ _ hu).mainAt _ _ _

/-- `ARM_TX` stores to `txCell` at `t0`, and nowhere else (R188). -/
theorem execArmTx_cells {b : Byte} {s t : State} (h : execArmTx b s = .next t) :
    SameOutsideCells s t := by
  unfold execArmTx at h
  split at h
  · exact mainStep_cells h fun _ _ _ hu => .of_mem (armStep_mem hu)
  · obtain ⟨u, hu, h'⟩ := andThen_next h
    cases h'
    exact (memWrite8_txCell hu).mainAt _ _ _

theorem execInit_cells {baud : Word} {s t : State} (h : execInit baud s = .next t) :
    SameOutsideCells s t := by
  unfold execInit at h
  split at h
  · cases h; exact .of_mem (mainAt_mem _ _ _ _)
  · exact mainStep_cells h fun _ _ _ hu => .of_mem (armStep_mem hu)
  · obtain ⟨⟨k, x, u⟩, hu, h'⟩ := andThen_next h
    have hm : SameOutsideCells s u := .of_mem (cfgStep_mem hu)
    cases k <;> (cases h'; exact hm.mainAt _ _ _)

theorem execMloop_cells {s t : State} (h : execMloop s = .next t) : SameOutsideCells s t := by
  have h := cooperativeOnly_next h
  split at h
  · obtain ⟨⟨k, x, u⟩, hu, h'⟩ := andThen_next h
    have hm : SameOutsideCells s u := .of_mem (readStep_mem hu)
    cases k <;> (cases h'; exact hm.mainAt _ _ _)
  · obtain ⟨⟨k, x, u⟩, hu, h'⟩ := andThen_next h
    cases k <;> (cases h'; exact (stxStep_cells hu).mainAt _ _ _)
  · cases h; exact .of_mem (mainAt_mem _ _ _ _)

/-- No instruction but `WR8_MEM` changes a byte outside the two cells. -/
theorem exec_cells {i : Instr} {s t : State} (h : exec i s = .next t)
    (hi : ∀ a b, i ≠ .wr8Mem a b) : SameOutsideCells s t := by
  cases i
  case wr8Mem a b => exact absurd rfl (hi a b)
  case wrCcrRx | wrCcrTx => exact endWrite_cells h fun _ => wrCcr_mem
  case wrCndtrRx | wrCndtrTx => exact endWrite_cells h fun _ => wrCndtr_mem
  case wrCparRx | wrCparTx | wrCmarRx | wrCmarTx =>
    exact endWrite_cells h fun _ => whileDisabled_mem
  case wrSlCr1 => exact endWrite_cells h fun _ => wrSlCr1_mem
  case wrSlCr3 => exact endWrite_cells h fun _ => wrSlCr3_mem
  case wrSlBrr => exact endWrite_cells h fun _ => wrSlBrr_mem
  case wrSlTdr32 => exact endWrite_cells h fun _ => wrSlTdr32_mem
  case rd8Mem =>
    obtain ⟨b, -, h'⟩ := andThen_next (h : andThen _ _ = _)
    cases h'
    exact .of_mem rfl
  case cfgLine =>
    simp only [exec, execCfgLine] at h
    exact mainStep_cells h fun _ _ _ hu => .of_mem (cfgStep_mem hu)
  case init => exact execInit_cells h
  case armRx =>
    simp only [exec, execArmRx] at h
    exact mainStep_cells h fun _ _ _ hu => .of_mem (armStep_mem hu)
  case armTx => exact execArmTx_cells h
  case disarmRx | disarmTx =>
    simp only [exec, execDisarmRx, execDisarmTx] at h
    exact mainStep_cells h fun _ _ _ hu => .of_mem (disarmStep_mem hu)
  case davail => cases cooperativeOnly_next h; exact .of_mem rfl
  case read =>
    exact mainStep_cells (cooperativeOnly_next h) fun _ _ _ hu => .of_mem (readStep_mem hu)
  case stx => exact mainStep_cells (cooperativeOnly_next h) fun _ _ _ => stxStep_cells
  case mloop => exact execMloop_cells h
  all_goals cases h; exact .of_mem rfl

/-- `MAIN` does not run a `WR8_MEM`. -/
def State.NotStoring (s : State) : Prop :=
  ∀ w pos x a b, s.main = .running w pos x → decode s.params w ≠ .ok (.wr8Mem a b)

theorem State.NotStoring.afterTurn {s : State} (h : s.NotStoring) : s.afterTurn.NotStoring := by
  unfold State.NotStoring
  rwa [afterTurn_main, afterTurn_params]

theorem mainRun_cells {s t : State} (h : mainRun s = .next t)
    (hw : s.NotStoring) : SameOutsideCells s t := by
  unfold mainRun at h
  split at h
  · cases h; exact .of_mem rfl
  · next w pos x hrun =>
    split at h
    · next i hd =>
      refine exec_cells h fun a b hi => hw w pos x a b hrun ?_
      rw [hd, hi]
    · cases h

/-! ## The handlers -/

theorem dmaSeq_mem {κ : Type} {wrap : κ → DmaPos} {done : DmaPos} {m : Micro κ} {s t : State}
    (h : dmaSeq wrap done m = .next t) (hm : ∀ k x u, m = .next (k, x, u) → u.mem = s.mem) :
    t.mem = s.mem := by
  obtain ⟨k, x, u, hu, rfl⟩ := dmaSeq_next h
  cases k <;> exact (dmaAt_mem u _ x).trans (hm _ _ _ hu)

/-- `H_DMA` stores to `txCell` at `d8` of the autonomous variant, and nowhere else (R267). -/
theorem dmaStep_cells {pos : DmaPos} {x : Temps} {s t : State} (h : dmaStep pos x s = .next t) :
    SameOutsideCells s t := by
  cases pos
  case d4 => exact .of_mem (dmaSeq_mem h fun _ _ _ => disarmStep_mem)
  case coop8 | auto9 | auto10 => exact .of_mem (dmaSeq_mem h fun _ _ _ => armStep_mem)
  case auto7 =>
    obtain ⟨b, -, h'⟩ := andThen_next (h : andThen _ _ = _)
    cases h'
    exact .of_mem rfl
  case auto8 =>
    obtain ⟨u, hu, h'⟩ := andThen_next (h : andThen _ _ = _)
    cases h'
    exact (memWrite8_txCell hu).congr_mem rfl
  all_goals cases h; exact .of_mem rfl

theorem dmaRun_cells {s t : State} (h : dmaRun s = .next t) : SameOutsideCells s t := by
  unfold dmaRun at h
  split at h
  · cases h; exact .of_mem rfl
  · exact dmaStep_cells h

theorem errStep_mem {pos : ErrPos} {x : Temps} {s t : State} (h : errStep pos x s = .next t) :
    t.mem = s.mem := by
  cases pos
  all_goals cases h; rfl

theorem errRun_mem {s t : State} (h : errRun s = .next t) : t.mem = s.mem := by
  unfold errRun at h
  split at h
  · cases h; rfl
  · exact errStep_mem h

theorem cpuStep_cells {pick : CpuPick} {s t : State} (h : cpuStep pick s = .next t)
    (hw : s.NotStoring) : SameOutsideCells s t := by
  unfold cpuStep at h
  split at h
  · cases h; exact .of_mem rfl
  · exact dmaRun_cells h
  · cases h; exact .of_mem rfl
  · exact .of_mem (errRun_mem h)
  · exact mainRun_cells h hw
  · cases h; exact .of_mem rfl

/-! ## The transfer and the other agents -/

/-- A channel is granted only while it is enabled (R175, R176). -/
theorem granted_en {s : State} {c : Role} (h : s.granted c = true) : (s.chan c).en = true := by
  obtain ⟨hready, -⟩ := Bool.and_eq_true_iff.1 (h : (_ && _) = true)
  obtain ⟨harmed, -⟩ := Bool.and_eq_true_iff.1 (hready : (_ && _) = true)
  exact (Bool.and_eq_true_iff.1 (harmed : (_ && _) = true)).1

/-- An enabled channel is bound to the cell of its role (R136). -/
theorem ChanInv.cmar {p : Params} {c : Role} {x : Chan} (h : ChanInv p c x) (he : x.en = true) :
    x.cmar = p.cellAddr c :=
  eq_of_beq (Bool.and_eq_true_iff.1 (h.bound he : (_ && _) = true)).2

/-- The transfer of an enabled channel changes no byte but its role's cell (R178). -/
theorem xfer_cells {c : Role} {s t : State} (hx : xfer c s = .next t)
    (hc : ChanInv s.params c (s.chan c)) (he : (s.chan c).en = true) : SameOutsideCells s t := by
  have hcell := hc.cmar he
  obtain ⟨rfl, -, rfl⟩ | ⟨rfl, -, b, -, rfl⟩ := xfer_next hx
  · rw [chan_rx] at hcell
    rw [hcell]
    exact (SameOutsideCells.store_cell s .rx s.sl.rdr).congr_mem rfl
  · exact .of_mem rfl

theorem slrxStep_mem (s : State) : (slrxStep s).mem = s.mem := by
  unfold slrxStep; split <;> rfl

theorem emitStep_mem (s : State) : (emitStep s).mem = s.mem := by
  unfold emitStep; split <;> rfl

theorem hostStep_mem (s : State) : (hostStep s).mem = s.mem := by
  unfold hostStep; split <;> rfl

/-- The turn of one agent, with `MAIN` not at a `WR8_MEM`. -/
theorem agentStep_cells {turn : Turn} {s t : State} (hinv : Inv s)
    (h : agentStep turn s = .next t)
    (hw : s.NotStoring) : SameOutsideCells s t := by
  cases turn with
  | ch c =>
    simp only [agentStep] at h
    split at h
    · next hg => exact xfer_cells h (hinv.chan c) (granted_en hg)
    · cases h; exact .of_mem rfl
  | slrx => cases h; exact .of_mem (slrxStep_mem s)
  | sltx => cases h; exact .of_mem (emitStep_mem s)
  | cpu pick => exact cpuStep_cells h hw
  | host => cases h; exact .of_mem (hostStep_mem s)

/-- A fault or a refusal is recorded and stores nothing (R321, R322). -/
theorem record_cells {s : State} {o : Out State}
    (ho : ∀ t, o = .next t → SameOutsideCells s t) : SameOutsideCells s (record s o) := by
  cases o with
  | next t => exact ho t rfl
  | fault r => exact .of_mem rfl
  | refused r => exact .of_mem rfl

/-- Settles O56: every store but that of `WR8_MEM` is to a cell, by the agent whose turn it is. -/
theorem onlyCellsAreWritten : Obligations.OnlyCellsAreWritten := by
  intro s t hinv hstep hw x hrx htx
  obtain ⟨-, -, rfl⟩ := step_next hstep
  have hnot : s.afterTurn.NotStoring := State.NotStoring.afterTurn hw
  have hcells : SameOutsideCells s.afterTurn _ :=
    record_cells (o := agentStep s.nextTurn s.afterTurn) fun _ hu =>
      agentStep_cells hinv.afterTurn hu hnot
  rw [hcells x (by simpa using hrx) (by simpa using htx)]
  exact byteAt_of_mem (afterTurn_mem s) x

end Sys2Proof.Machine

/-!
The encoding (spec/30_encoding.md): the fields of `CTL`, where the registers lie, one rule per
branch of the decoder, and from these the round trip in both directions and the order of the
refusals.
-/

namespace Sys2Proof

/-! ## The groups of a word and the fields of `CTL` (R100, R101) -/

theorem getLsbD_ctlOf (t : OpWord) {k : Nat} (hk : k < 8) :
    (ctlOf t).getLsbD k = t.getLsbD (64 + k) := by
  simp [ctlOf, hk]

theorem extract_ctlOf (t : OpWord) {k n : Nat} (hk : k + n ≤ 8) :
    (ctlOf t).extractLsb' k n = t.extractLsb' (64 + k) n := by
  ext i hi
  rw [BitVec.getElem_extractLsb', BitVec.getElem_extractLsb', getLsbD_ctlOf t (by omega),
    Nat.add_assoc]

theorem extract_addrOf (t : OpWord) : (addrOf t).extractLsb' 0 2 = t.extractLsb' 32 2 := by
  ext i hi
  simp [addrOf, show i < 32 by omega]

theorem highZero_dataOf (t : OpWord) :
    highZero (dataOf t) = true ↔ t.extractLsb' 8 24 = 0#24 := by
  have hfield : (dataOf t).extractLsb' 8 24 = t.extractLsb' 8 24 := by
    ext i hi
    simp [dataOf]
  rw [highZero, hfield, beq_iff_eq]

/-- The three groups are the whole word. -/
theorem opWord_groups (t : OpWord) : opWord (ctlOf t) (addrOf t) (dataOf t) = t := by
  unfold opWord ctlOf addrOf dataOf
  rw [BitVec.extractLsb'_append_extractLsb'_eq_extractLsb' (start₂ := 64) (start₁ := 32) rfl,
    BitVec.extractLsb'_append_extractLsb'_eq_extractLsb' (start₂ := 32) (start₁ := 0) rfl]
  exact BitVec.extractLsb'_eq_self

theorem byteData_lowByte {d : Word} (hd : highZero d = true) : byteData (lowByte d) = d := by
  have hhigh : d.extractLsb' 8 24 = 0#24 := eq_of_beq hd
  calc byteData (lowByte d)
      = 0#24 ++ d.extractLsb' 0 8 := BitVec.setWidth_eq_append (by omega)
    _ = d.extractLsb' 8 24 ++ d.extractLsb' 0 8 := by rw [hhigh]
    _ = d := by
      rw [BitVec.extractLsb'_append_extractLsb'_eq_extractLsb' (start₂ := 8) (start₁ := 0) rfl]
      exact BitVec.extractLsb'_eq_self

/-- The `CTL` of a BUS word: direction, class 0, the zero bits, the width (R102). -/
def busCtl (write : Bool) (sz : BitVec 2) : BitVec 8 := BitVec.ofBool write ++ 0#5 ++ sz

/-- The `CTL` of a CMD word: class 1 and the command code (R103). -/
def cmdCtl (cc : BitVec 6) : BitVec 8 := 1#2 ++ cc

theorem eq_busCtl : ∀ {ctl : BitVec 8}, ctl.getLsbD 6 = false → ctl.extractLsb' 2 4 = 0#4 →
    ctl = busCtl (ctl.getLsbD 7) (ctl.extractLsb' 0 2) := by decide

theorem eq_cmdCtl : ∀ {ctl : BitVec 8}, ctl.extractLsb' 6 2 = 1#2 →
    ctl = cmdCtl (ctl.extractLsb' 0 6) := by decide

/-- The classes of R101: reserved, CMD, and BUS, where the direction is the upper class bit. -/
theorem class_cases : ∀ ctl : BitVec 8,
    ctl.extractLsb' 6 2 = 3#2 ∨ ctl.extractLsb' 6 2 = 1#2 ∨ ctl.getLsbD 6 = false := by decide

/-! ## The four branches of `decode` (R101, R106) -/

theorem decode_of_reservedClass (p : Params) {t : OpWord} (h : (ctlOf t).extractLsb' 6 2 = 3#2) :
    decode p t = .error .reservedEncoding := by
  simp [decode, h]

theorem decode_of_nonzeroBits (p : Params) {t : OpWord} (hbus : (ctlOf t).getLsbD 6 = false)
    (h : (ctlOf t).extractLsb' 2 4 ≠ 0#4) : decode p t = .error .reservedEncoding := by
  simp only [decode, hbus, Bool.false_eq_true, if_false, if_pos h, ite_self]

/-- A BUS word decodes by its direction, its width, its address and its data. -/
theorem decode_busWord (p : Params) (write : Bool) (sz : BitVec 2) (a d : Word) :
    decode p (opWord (busCtl write sz) a d) = decodeBus p write sz a d := by
  have hfields : ∀ (write : Bool) (sz : BitVec 2), (busCtl write sz).extractLsb' 6 2 ≠ 3#2 ∧
      (busCtl write sz).getLsbD 6 = false ∧ (busCtl write sz).extractLsb' 2 4 = 0#4 ∧
      (busCtl write sz).getLsbD 7 = write ∧ (busCtl write sz).extractLsb' 0 2 = sz := by decide
  obtain ⟨hclass, hcmd, hzero, hwrite, hsz⟩ := hfields write sz
  simp only [decode, ctlOf_opWord, addrOf_opWord, dataOf_opWord, hcmd, hzero, hwrite, hsz,
    if_neg hclass, Bool.false_eq_true, if_false, ne_eq, not_true_eq_false]

/-- A CMD word decodes by its code, its address and its data. -/
theorem decode_cmdWord (p : Params) (cc : BitVec 6) (a d : Word) :
    decode p (opWord (cmdCtl cc) a d) = decodeCmd cc.toNat a d := by
  have hfields : ∀ cc : BitVec 6, (cmdCtl cc).extractLsb' 6 2 ≠ 3#2 ∧
      (cmdCtl cc).getLsbD 6 = true ∧ (cmdCtl cc).extractLsb' 0 6 = cc := by decide
  obtain ⟨hclass, hcmd, hcode⟩ := hfields cc
  simp only [decode, ctlOf_opWord, addrOf_opWord, dataOf_opWord, hcmd, hcode, if_neg hclass,
    if_true]

theorem decode_of_bus (p : Params) {t : OpWord} (hbus : (ctlOf t).getLsbD 6 = false)
    (hzero : (ctlOf t).extractLsb' 2 4 = 0#4) :
    decode p t = decodeBus p ((ctlOf t).getLsbD 7) ((ctlOf t).extractLsb' 0 2) (addrOf t)
      (dataOf t) := by
  rw [← decode_busWord, ← eq_busCtl hbus hzero, opWord_groups]

theorem decode_of_cmd (p : Params) {t : OpWord} (hclass : (ctlOf t).extractLsb' 6 2 = 1#2) :
    decode p t = decodeCmd ((ctlOf t).extractLsb' 0 6).toNat (addrOf t) (dataOf t) := by
  rw [← decode_cmdWord p, ← eq_cmdCtl hclass, opWord_groups]

/-! ## Where the registers lie (10_state.md sections 2 and 3) -/

/-- Whether a register is one of the DMA block. -/
def Reg.isDma : Reg → Bool
  | .dmaIsr | .dmaIfcr | .ccr _ | .cndtr _ | .cpar _ | .cmar _ => true
  | .slCr1 | .slCr3 | .slBrr | .slIsr | .slIcr | .slRdr | .slTdr => false

namespace Params

/-- The base of the window a register is in. -/
def regBase (p : Params) (r : Reg) : Word := if r.isDma then p.dmaBase else p.slBase

/-- The distance of a register from the base of its window. -/
def regOffset (p : Params) : Reg → Nat
  | .dmaIsr => 0x00
  | .dmaIfcr => 0x04
  | .ccr c => 0x08 + 20 * (p.channel c - 1)
  | .cndtr c => 0x0C + 20 * (p.channel c - 1)
  | .cpar c => 0x10 + 20 * (p.channel c - 1)
  | .cmar c => 0x14 + 20 * (p.channel c - 1)
  | .slCr1 => 0x00
  | .slCr3 => 0x08
  | .slBrr => 0x0C
  | .slIsr => 0x1C
  | .slIcr => 0x20
  | .slRdr => 0x24
  | .slTdr => 0x28

/-- The role of channel number `n`, where it is one of the two. -/
def roleOf (p : Params) (n : Nat) : Role := if n = p.rxCh then .rx else .tx

/-- The register of a channel at `k` bytes from the channel's first. -/
def chanReg (c : Role) (k : Nat) : Reg :=
  if k = 0 then .ccr c else if k = 4 then .cndtr c else if k = 8 then .cpar c else .cmar c

/-- The register at an offset, in the DMA window or in the serial line's: the inverse of
`regOffset`, a channel being 20 bytes (`regOfOffset_regOffset`). -/
def regOfOffset (p : Params) : Bool → Nat → Reg
  | true, o =>
    if o = 0x00 then .dmaIsr else if o = 0x04 then .dmaIfcr
    else chanReg (p.roleOf ((o - 8) / 20 + 1)) ((o - 8) % 20)
  | false, 0x00 => .slCr1
  | false, 0x08 => .slCr3
  | false, 0x0C => .slBrr
  | false, 0x1C => .slIsr
  | false, 0x20 => .slIcr
  | false, 0x24 => .slRdr
  | false, _ => .slTdr

/-- `a` lies in one of the two register windows. -/
abbrev inRegs (p : Params) (a : Word) : Prop := p.inDma a ∨ p.inSl a

theorem regAddr_eq (p : Params) (r : Reg) :
    p.regAddr r = p.regBase r + BitVec.ofNat 32 (p.regOffset r) := by
  cases r <;> rfl

theorem regAddr_of_regAt {p : Params} {a : Word} {r : Reg} (h : p.regAt a = some r) :
    p.regAddr r = a := by
  have hfound := List.find?_some (p := fun r => p.regAddr r == a) h
  exact eq_of_beq hfound

/-- `Reg.all` lists every register, so `regAt` misses none. -/
theorem regAt_eq_none_iff {p : Params} {a : Word} :
    p.regAt a = none ↔ ∀ r : Reg, p.regAddr r ≠ a := by
  have hall : ∀ r : Reg, r ∈ Reg.all := by
    rintro (_ | _ | (_ | _) | (_ | _) | (_ | _) | (_ | _) | _) <;> decide
  simp [regAt, hall]

section
variable {p : Params} (h : p.Wf)
include h

theorem channel_bounds (c : Role) : 1 ≤ p.channel c ∧ p.channel c ≤ 7 := by
  obtain ⟨hrx, htx, -⟩ := h
  cases c
  · exact hrx
  · exact htx

theorem roleOf_channel (c : Role) : p.roleOf (p.channel c) = c := by
  obtain ⟨-, -, hne, -⟩ := h
  cases c
  · exact if_pos rfl
  · exact if_neg hne.symm

/-- Every register is a whole word inside its window, at a multiple of 4. -/
theorem regOffset_bounds (r : Reg) : p.regOffset r + 4 ≤ windowSize ∧ p.regOffset r % 4 = 0 := by
  have hch := channel_bounds h
  cases r with
  | ccr c | cndtr c | cpar c | cmar c =>
    have := hch c
    simp only [regOffset, windowSize]
    omega
  | _ => simp [regOffset, windowSize]

theorem regBase_bounds (r : Reg) :
    (p.regBase r).toNat % 4 = 0 ∧ (p.regBase r).toNat + windowSize ≤ 2 ^ 32 := by
  obtain ⟨-, -, -, hdma, hsl, hdmaEnd, hslEnd, -⟩ := h
  unfold regBase
  split
  · exact ⟨hdma, hdmaEnd⟩
  · exact ⟨hsl, hslEnd⟩

theorem toNat_regAddr (r : Reg) :
    (p.regAddr r).toNat = (p.regBase r).toNat + p.regOffset r := by
  have hoff := (regOffset_bounds h r).1
  have hbase := (regBase_bounds h r).2
  simp only [windowSize] at hoff hbase
  rw [regAddr_eq, BitVec.toNat_add, BitVec.toNat_ofNat]
  omega

theorem regAddr_aligned (r : Reg) : (p.regAddr r).toNat % 4 = 0 := by
  have hoff := (regOffset_bounds h r).2
  have hbase := (regBase_bounds h r).1
  rw [toNat_regAddr h]
  omega

/-- All four bytes of a register lie in its window. -/
theorem within_regBase {r : Reg} {a : Word} (hlo : (p.regAddr r).toNat ≤ a.toNat)
    (hhi : a.toNat < (p.regAddr r).toNat + 4) : within (p.regBase r) windowSize a := by
  have hoff := (regOffset_bounds h r).1
  rw [toNat_regAddr h] at hlo hhi
  unfold within
  omega

theorem inRegs_of_within_reg {r : Reg} {a : Word} (hlo : (p.regAddr r).toNat ≤ a.toNat)
    (hhi : a.toNat < (p.regAddr r).toNat + 4) : p.inRegs a := by
  have hin := within_regBase h hlo hhi
  unfold regBase at hin
  split at hin
  · exact .inl hin
  · exact .inr hin

theorem inRegs_regAddr (r : Reg) : p.inRegs (p.regAddr r) :=
  inRegs_of_within_reg h le_rfl (by omega)

theorem not_inRam_of_inRegs {a : Word} (ha : p.inRegs a) : ¬ p.inRam a := by
  obtain ⟨-, -, -, -, -, -, -, -, -, -, -, -, -, hdma, hsl⟩ := h
  simp only [disjoint] at hdma hsl
  simp only [inRegs, inDma, inSl, inRam, within] at ha ⊢
  omega

/-- The quotient by 20 tells the channel and the remainder the register of the channel. -/
theorem regOfOffset_channel (c : Role) {k : Nat} (hk : k < 20) :
    p.regOfOffset true (0x08 + k + 20 * (p.channel c - 1)) = chanReg c k := by
  have hch := channel_bounds h c
  have hnum : (0x08 + k + 20 * (p.channel c - 1) - 8) / 20 + 1 = p.channel c := by omega
  have hslot : (0x08 + k + 20 * (p.channel c - 1) - 8) % 20 = k := by omega
  simp only [regOfOffset]
  rw [if_neg (by omega), if_neg (by omega), hnum, hslot, roleOf_channel h]

theorem regOfOffset_regOffset (r : Reg) : p.regOfOffset r.isDma (p.regOffset r) = r := by
  cases r with
  | ccr c => exact regOfOffset_channel h c (k := 0) (by decide)
  | cndtr c => exact regOfOffset_channel h c (k := 4) (by decide)
  | cpar c => exact regOfOffset_channel h c (k := 8) (by decide)
  | cmar c => exact regOfOffset_channel h c (k := 12) (by decide)
  | _ => rfl

/-- The two windows share no address (R5), so equal addresses are in one window. -/
theorem isDma_eq_of_regAddr_eq {r q : Reg} (heq : p.regAddr r = p.regAddr q) :
    r.isDma = q.isDma := by
  have hr := within_regBase h (r := r) le_rfl (by omega)
  have hq := within_regBase h (r := q) le_rfl (by omega)
  rw [heq] at hr
  obtain ⟨-, -, -, -, -, -, -, -, -, -, -, -, hdisj, -⟩ := h
  simp only [disjoint] at hdisj
  simp only [regBase, within] at hr hq
  cases hdr : r.isDma <;> cases hdq : q.isDma <;> simp [hdr, hdq] at hr hq ⊢ <;> omega

theorem regAddr_injective {r q : Reg} (heq : p.regAddr r = p.regAddr q) : r = q := by
  have hblock := isDma_eq_of_regAddr_eq h heq
  have hbase : p.regBase r = p.regBase q := by unfold regBase; rw [hblock]
  have hoff : p.regOffset r = p.regOffset q := by
    have hnat := congrArg BitVec.toNat heq
    rw [toNat_regAddr h, toNat_regAddr h, hbase] at hnat
    exact Nat.add_left_cancel hnat
  rw [← regOfOffset_regOffset h r, hblock, hoff, regOfOffset_regOffset h]

theorem regAt_regAddr (r : Reg) : p.regAt (p.regAddr r) = some r := by
  cases hat : p.regAt (p.regAddr r) with
  | none => exact absurd rfl (regAt_eq_none_iff.1 hat r)
  | some q => rw [regAddr_injective h (regAddr_of_regAt hat)]

end

end Params

/-! ## One register (R106, R107) -/

/-- The two lowest bits of an address are its remainder by 4. -/
theorem extract_eq_zero_iff (a : Word) : a.extractLsb' 0 2 = 0#2 ↔ a.toNat % 4 = 0 := by
  rw [← BitVec.toNat_inj]
  simp [BitVec.extractLsb'_toNat]

/-- Clearing the two lowest bits gives the multiple of 4 whose four bytes hold the address. -/
theorem clearLow_eq_iff {a b : Word} (hb : b.toNat % 4 = 0) :
    a &&& ~~~3#32 = b ↔ b.toNat ≤ a.toNat ∧ a.toNat < b.toNat + 4 := by
  have hshift : a &&& ~~~3#32 = (a >>> 2) <<< 2 := by
    ext i hi
    have hmask : ∀ k (hk : k < 32), (~~~3#32)[k] = decide (2 ≤ k) := by decide
    rw [BitVec.getElem_and, hmask i hi, BitVec.getElem_shiftLeft]
    by_cases h2 : i < 2
    · simp [h2]
    · simp [h2, show 2 ≤ i by omega, BitVec.getLsbD_eq_getElem hi]
  rw [hshift, ← BitVec.toNat_inj, BitVec.toNat_shiftLeft, BitVec.toNat_ushiftRight,
    Nat.shiftLeft_eq, Nat.shiftRight_eq_div_pow]
  omega

theorem decodeWordReg_ok {p : Params} {write : Bool} {a d : Word} {i : Instr}
    (h : decodeWordReg p write a d = .ok i) :
    ∃ r, p.regAddr r = a ∧ i = if write then writeOf d r else readOf r := by
  unfold decodeWordReg at h
  split at h
  · cases h
  · next r hat =>
    cases h
    exact ⟨r, Params.regAddr_of_regAt hat, rfl⟩

theorem decodeByteReg_ok {p : Params} {write : Bool} {a d : Word} {i : Instr}
    (h : decodeByteReg p write a d = .ok i) :
    ∃ r, p.regAddr r = a ∧ byteAccessOf write (lowByte d) r = some i := by
  unfold decodeByteReg at h
  split at h
  · cases h
  · next r hat =>
    split at h
    · next j hj =>
      cases h
      split at hj
      · next ha => exact ⟨r, ha.symm, hj⟩
      · cases hj
    · cases h

theorem decodeWordReg_regAddr {p : Params} (hp : p.Wf) (write : Bool) (r : Reg) (d : Word) :
    decodeWordReg p write (p.regAddr r) d = .ok (if write then writeOf d r else readOf r) := by
  simp only [decodeWordReg, Params.regAt_regAddr hp]

theorem decodeWordReg_of_noReg {p : Params} (write : Bool) {a d : Word}
    (ha : ∀ r, a ≠ p.regAddr r) :
    decodeWordReg p write a d = .error .unimplementedRegister := by
  have hat : p.regAt a = none := Params.regAt_eq_none_iff.2 fun r => (ha r).symm
  simp only [decodeWordReg, hat]

/-- An address within the four bytes of a register finds that register. -/
theorem regAt_clearLow {p : Params} (hp : p.Wf) {r : Reg} {a : Word}
    (hlo : (p.regAddr r).toNat ≤ a.toNat) (hhi : a.toNat < (p.regAddr r).toNat + 4) :
    p.regAt (a &&& ~~~3#32) = some r := by
  rw [(clearLow_eq_iff (Params.regAddr_aligned hp r)).2 ⟨hlo, hhi⟩, Params.regAt_regAddr hp]

theorem decodeByteReg_regAddr {p : Params} (hp : p.Wf) {write : Bool} {r : Reg} {d : Word}
    {i : Instr} (hi : byteAccessOf write (lowByte d) r = some i) :
    decodeByteReg p write (p.regAddr r) d = .ok i := by
  have hat := regAt_clearLow hp (r := r) le_rfl (by omega)
  simp only [decodeByteReg, hat, if_true, hi]

/-- The registers but the two data registers take no 8-bit access (R74). -/
theorem byteAccessOf_eq_none {write : Bool} {b : Byte} {r : Reg}
    (hr : ¬ (r = .slRdr ∨ r = .slTdr)) : byteAccessOf write b r = none := by
  unfold byteAccessOf
  split
  · exact absurd (.inl rfl) hr
  · exact absurd (.inr rfl) hr
  · rfl

theorem decodeByteReg_of_narrow {p : Params} (hp : p.Wf) (write : Bool) {r : Reg} {a d : Word}
    (hlo : (p.regAddr r).toNat ≤ a.toNat) (hhi : a.toNat < (p.regAddr r).toNat + 4)
    (hr : ¬ (a = p.regAddr r ∧ (r = .slRdr ∨ r = .slTdr))) :
    decodeByteReg p write a d = .error .unsupportedWidth := by
  have hnone : (if a = p.regAddr r then byteAccessOf write (lowByte d) r else none) = none := by
    split
    · next ha => exact byteAccessOf_eq_none fun hdata => hr ⟨ha, hdata⟩
    · rfl
  simp only [decodeByteReg, regAt_clearLow hp hlo hhi, hnone]

theorem decodeByteReg_of_noReg {p : Params} (hp : p.Wf) (write : Bool) {a d : Word}
    (ha : ∀ r, ¬ ((p.regAddr r).toNat ≤ a.toNat ∧ a.toNat < (p.regAddr r).toNat + 4)) :
    decodeByteReg p write a d = .error .unimplementedRegister := by
  have hat : p.regAt (a &&& ~~~3#32) = none := Params.regAt_eq_none_iff.2 fun r heq =>
    ha r ((clearLow_eq_iff (Params.regAddr_aligned hp r)).1 heq.symm)
  simp only [decodeByteReg, hat]

/-! ## The branches of a BUS word, in the order of R106 -/

/-- The width exists, and an 8-bit write is of a byte: what R106 checks before the address. -/
def WidthOk (write : Bool) (sz : BitVec 2) (d : Word) : Prop :=
  sz = 2#2 ∨ sz = 0#2 ∧ (write = true → highZero d = true)

theorem WidthOk.checks {write : Bool} {sz : BitVec 2} {d : Word} (h : WidthOk write sz d) :
    ¬ (sz = 1#2 ∨ sz = 3#2) ∧ ¬ (sz = 0#2 ∧ write = true ∧ highZero d = false) := by
  obtain rfl | ⟨rfl, hd⟩ := h
  · exact ⟨by decide, fun hbyte => absurd hbyte.1 (by decide)⟩
  · exact ⟨by decide, fun ⟨_, hw, hf⟩ => by simp [hd hw] at hf⟩

section
variable (p : Params) (write : Bool) {sz : BitVec 2} {a d : Word}

theorem decodeBus_of_noWidth (hsz : sz = 1#2 ∨ sz = 3#2) :
    decodeBus p write sz a d = .error .unsupportedWidth :=
  if_pos hsz

/-- The two widths with a low bit of 1 are the two that do not exist (R101). -/
theorem width_of_odd : ∀ {sz : BitVec 2}, sz.getLsbD 0 = true → sz = 1#2 ∨ sz = 3#2 := by decide

theorem decodeBus_of_wideByte (hd : highZero d = false) :
    decodeBus p true 0#2 a d = .error .reservedEncoding := by
  rw [decodeBus, if_neg (by decide), if_pos ⟨rfl, rfl, hd⟩]

theorem decodeBus_of_unmapped (hw : WidthOk write sz d) (hdma : ¬ p.inDma a) (hsl : ¬ p.inSl a)
    (hram : ¬ p.inRam a) : decodeBus p write sz a d = .error .unmappedAccess := by
  obtain ⟨hsz, hbyte⟩ := hw.checks
  have hout : ¬ (p.inDma a ∨ p.inSl a ∨ p.inRam a) := not_or.2 ⟨hdma, not_or.2 ⟨hsl, hram⟩⟩
  rw [decodeBus, if_neg hsz, if_neg hbyte, if_pos hout]

theorem decodeBus_of_misaligned (ha : p.inRegs a ∨ p.inRam a) (hal : a.extractLsb' 0 2 ≠ 0#2) :
    decodeBus p write 2#2 a d = .error .misalignedAccess := by
  obtain ⟨hsz, hbyte⟩ := WidthOk.checks (write := write) (d := d) (.inl rfl)
  rw [decodeBus, if_neg hsz, if_neg hbyte, if_neg (by rwa [← or_assoc, not_not]),
    if_pos ⟨rfl, hal⟩]

/-- A mapped access of an existing width that is not misaligned: RAM or a register decides. -/
theorem decodeBus_of_mapped (hw : WidthOk write sz d) (ha : p.inRegs a ∨ p.inRam a)
    (hal : sz = 2#2 → a.extractLsb' 0 2 = 0#2) :
    decodeBus p write sz a d =
      if p.inRam a then
        if sz = 0#2 then .ok (if write then .wr8Mem a (lowByte d) else .rd8Mem a)
        else .error .unsupportedWidth
      else if sz = 0#2 then decodeByteReg p write a d else decodeWordReg p write a d := by
  obtain ⟨hsz, hbyte⟩ := hw.checks
  rw [decodeBus, if_neg hsz, if_neg hbyte, if_neg (by rwa [← or_assoc, not_not]),
    if_neg fun ⟨h2, hmis⟩ => hmis (hal h2)]

theorem decodeBus_ram32 (ha : p.inRam a) (hal : a.extractLsb' 0 2 = 0#2) :
    decodeBus p write 2#2 a d = .error .unsupportedWidth := by
  rw [decodeBus_of_mapped p write (.inl rfl) (.inr ha) fun _ => hal, if_pos ha]
  rfl

theorem decodeBus_ram8 (ha : p.inRam a) (hd : write = true → highZero d = true) :
    decodeBus p write 0#2 a d = .ok (if write then .wr8Mem a (lowByte d) else .rd8Mem a) := by
  rw [decodeBus_of_mapped p write (.inr ⟨rfl, hd⟩) (.inr ha) (absurd · (by decide)), if_pos ha]
  rfl

theorem decodeBus_reg32 (hp : p.Wf) (ha : p.inRegs a) (hal : a.extractLsb' 0 2 = 0#2) :
    decodeBus p write 2#2 a d = decodeWordReg p write a d := by
  rw [decodeBus_of_mapped p write (.inl rfl) (.inl ha) fun _ => hal,
    if_neg (Params.not_inRam_of_inRegs hp ha)]
  rfl

theorem decodeBus_reg8 (hp : p.Wf) (ha : p.inRegs a) (hd : write = true → highZero d = true) :
    decodeBus p write 0#2 a d = decodeByteReg p write a d := by
  rw [decodeBus_of_mapped p write (.inr ⟨rfl, hd⟩) (.inl ha) (absurd · (by decide)),
    if_neg (Params.not_inRam_of_inRegs hp ha)]
  rfl

/-- What an accepted BUS access is: a byte of RAM, or a register at its own address, in a width
the register takes. -/
theorem decodeBus_ok {i : Instr} (h : decodeBus p write sz a d = .ok i) :
    (sz = 0#2 ∧ (write = true → highZero d = true) ∧
      ((p.inRam a ∧ i = if write then .wr8Mem a (lowByte d) else .rd8Mem a) ∨
        ∃ r, p.regAddr r = a ∧ byteAccessOf write (lowByte d) r = some i)) ∨
    (sz = 2#2 ∧ ∃ r, p.regAddr r = a ∧ i = if write then writeOf d r else readOf r) := by
  have hwidths : ∀ sz : BitVec 2, ¬ (sz = 1#2 ∨ sz = 3#2) → sz ≠ 0#2 → sz = 2#2 := by decide
  unfold decodeBus at h
  split at h
  · cases h
  next hsz =>
  split at h
  · cases h
  next hbyte =>
  have hd : sz = 0#2 → write = true → highZero d = true := by simpa using hbyte
  split at h
  · cases h
  split at h
  · cases h
  split at h
  · next hram =>
    split at h
    · next h0 =>
      cases h
      exact .inl ⟨h0, hd h0, .inl ⟨hram, rfl⟩⟩
    · cases h
  · split at h
    · next h0 => exact .inl ⟨h0, hd h0, .inr (decodeByteReg_ok h)⟩
    · next h0 => exact .inr ⟨hwidths sz hsz h0, decodeWordReg_ok h⟩

end

/-! ## The commands (R103, R108) -/

/-- The command codes of R108. -/
abbrev definedCodes : List (BitVec 6) :=
  [0x01, 0x02, 0x03, 0x04, 0x08, 0x09, 0x0A, 0x0B, 0x0C, 0x0D, 0x10, 0x11, 0x12, 0x13]

/-- The codes of the commands without an argument. -/
abbrev noArgCodes : List (BitVec 6) :=
  [0x03, 0x04, 0x08, 0x0A, 0x0B, 0x0C, 0x0D, 0x10, 0x11, 0x13]

/-- The codes of the commands with a byte: `ARM_TX` and `STX`. -/
abbrev byteArgCodes : List (BitVec 6) := [0x09, 0x12]

theorem decodeCmd_of_addr (cc : Nat) {a : Word} (d : Word) (ha : a ≠ 0#32) :
    decodeCmd cc a d = .error .reservedEncoding :=
  if_pos ha

theorem decodeCmd_of_undefined {cc : BitVec 6} (a d : Word) (hcc : cc ∉ definedCodes) :
    decodeCmd cc.toNat a d = .error .reservedEncoding := by
  simp only [definedCodes, List.mem_cons, List.not_mem_nil, or_false, not_or,
    ← BitVec.toNat_inj] at hcc
  unfold decodeCmd
  split
  · rfl
  -- each code with a command is one that `hcc` shuts out
  · split <;> simp_all

theorem byteArg_byteData (b : Byte) (f : Byte → Instr) : byteArg (byteData b) f = .ok (f b) := by
  simp [byteArg]

theorem decodeCmd_of_extraArg {cc : BitVec 6} (a : Word) {d : Word} (hcc : cc ∈ noArgCodes)
    (hd : d ≠ 0#32) : decodeCmd cc.toNat a d = .error .reservedEncoding := by
  simp only [noArgCodes, List.mem_cons, List.not_mem_nil, or_false] at hcc
  have hno : ∀ i, noArg d i = .error .reservedEncoding := fun _ => if_neg hd
  by_cases ha : a = 0#32
  · rcases hcc with rfl | rfl | rfl | rfl | rfl | rfl | rfl | rfl | rfl | rfl <;>
      simp [decodeCmd, ha, hno]
  · exact decodeCmd_of_addr _ d ha

theorem decodeCmd_of_wideArg {cc : BitVec 6} (a : Word) {d : Word} (hcc : cc ∈ byteArgCodes)
    (hd : highZero d = false) : decodeCmd cc.toNat a d = .error .reservedEncoding := by
  simp only [byteArgCodes, List.mem_cons, List.not_mem_nil, or_false] at hcc
  have hwide : ∀ f, byteArg d f = .error .reservedEncoding := by simp [byteArg, hd]
  by_cases ha : a = 0#32
  · rcases hcc with rfl | rfl <;> simp [decodeCmd, ha, hwide]
  · exact decodeCmd_of_addr _ d ha

/-! ## The round trip: `decode` of `encode` -/

/-- A 32-bit access at the address of a register. -/
theorem decode_wordReg {p : Params} (hp : p.Wf) (write : Bool) (r : Reg) (d : Word) :
    decode p (opWord (busCtl write 2#2) (p.regAddr r) d) =
      .ok (if write then writeOf d r else readOf r) := by
  have hal := (extract_eq_zero_iff _).2 (Params.regAddr_aligned hp r)
  rw [decode_busWord, decodeBus_reg32 p write hp (Params.inRegs_regAddr hp r) hal,
    decodeWordReg_regAddr hp]

theorem decode_rdWord {p : Params} (hp : p.Wf) (r : Reg) :
    decode p (rdWord p r) = .ok (readOf r) :=
  decode_wordReg hp false r 0#32

theorem decode_wrWord {p : Params} (hp : p.Wf) (r : Reg) (w : Word) :
    decode p (wrWord p r w) = .ok (writeOf w r) :=
  decode_wordReg hp true r w

/-- An 8-bit access at the own address of a register that takes one. -/
theorem decode_byteReg {p : Params} (hp : p.Wf) {write : Bool} {r : Reg} {d : Word} {i : Instr}
    (hd : write = true → highZero d = true) (hi : byteAccessOf write (lowByte d) r = some i) :
    decode p (opWord (busCtl write 0#2) (p.regAddr r) d) = .ok i := by
  rw [decode_busWord, decodeBus_reg8 p write hp (Params.inRegs_regAddr hp r) hd,
    decodeByteReg_regAddr hp hi]

/-- Settles O1: each row of R107 by the rule of its access, each row of R108 by its code. -/
theorem decodeEncodeAgree : Obligations.DecodeEncodeAgree := by
  intro p i hp hwf
  cases i with
  | rdDmaIsr | rdDmaIfcr | rdCcrRx | rdCcrTx | rdCndtrRx | rdCndtrTx | rdCparRx | rdCparTx
  | rdCmarRx | rdCmarTx | rdSlCr1 | rdSlCr3 | rdSlBrr | rdSlIsr | rdSlIcr | rdSlRdr32
  | rdSlTdr32 => exact decode_rdWord hp _
  | wrDmaIsr w | wrDmaIfcr w | wrCcrRx w | wrCcrTx w | wrCndtrRx w | wrCndtrTx w | wrCparRx w
  | wrCparTx w | wrCmarRx w | wrCmarTx w | wrSlCr1 w | wrSlCr3 w | wrSlBrr w | wrSlIsr w
  | wrSlIcr w | wrSlRdr32 w | wrSlTdr32 w => exact decode_wrWord hp _ w
  | rdSlRdr8 => exact decode_byteReg hp (write := false) (r := .slRdr) (by decide) rfl
  | rdSlTdr8 => exact decode_byteReg hp (write := false) (r := .slTdr) (by decide) rfl
  | wrSlRdr8 b =>
    exact decode_byteReg hp (write := true) (r := .slRdr) (fun _ => highZero_byteData b)
      (by rw [lowByte_byteData]; rfl)
  | wrSlTdr8 b =>
    exact decode_byteReg hp (write := true) (r := .slTdr) (fun _ => highZero_byteData b)
      (by rw [lowByte_byteData]; rfl)
  | rd8Mem a =>
    have hram : p.inRam a := of_decide_eq_true hwf
    exact (decode_busWord p false 0#2 a 0#32).trans (decodeBus_ram8 p false hram (by decide))
  | wr8Mem a b =>
    have hram : p.inRam a := of_decide_eq_true hwf
    have hbus := decodeBus_ram8 p true (d := byteData b) hram fun _ => highZero_byteData b
    rw [lowByte_byteData] at hbus
    exact (decode_busWord p true 0#2 a (byteData b)).trans hbus
  | cfgLine d => exact decode_cmdWord p 0x01#6 0#32 d
  | init d => exact decode_cmdWord p 0x02#6 0#32 d
  | armTx b => exact (decode_cmdWord p 0x09#6 0#32 (byteData b)).trans (byteArg_byteData b _)
  | stx b => exact (decode_cmdWord p 0x12#6 0#32 (byteData b)).trans (byteArg_byteData b _)
  | irqenDma => exact decode_cmdWord p 0x03#6 0#32 0#32
  | irqenErr => exact decode_cmdWord p 0x04#6 0#32 0#32
  | armRx => exact decode_cmdWord p 0x08#6 0#32 0#32
  | disarmRx => exact decode_cmdWord p 0x0A#6 0#32 0#32
  | disarmTx => exact decode_cmdWord p 0x0B#6 0#32 0#32
  | clrtcRx => exact decode_cmdWord p 0x0C#6 0#32 0#32
  | clrtcTx => exact decode_cmdWord p 0x0D#6 0#32 0#32
  | davail => exact decode_cmdWord p 0x10#6 0#32 0#32
  | read => exact decode_cmdWord p 0x11#6 0#32 0#32
  | mloop => exact decode_cmdWord p 0x13#6 0#32 0#32

/-! ## The converse: `encode` of what `decode` gives -/

/-- `i` is well formed and its word has the groups `ctl`, `a` and `d`; the `DATA` of a read is free
(R102). -/
def WrittenAs (p : Params) (i : Instr) (ctl : BitVec 8) (a d : Word) : Prop :=
  i.wellFormed p = true ∧
    ∃ d', encode p i = opWord ctl a d' ∧ (ctl ≠ 0x00#8 → ctl ≠ 0x02#8 → d' = d)

theorem WrittenAs.of_encode {p : Params} {i : Instr} {ctl : BitVec 8} {a d : Word}
    (hwf : i.wellFormed p = true) (h : encode p i = opWord ctl a d) : WrittenAs p i ctl a d :=
  ⟨hwf, d, h, fun _ _ => rfl⟩

theorem readOf_writtenAs (p : Params) (r : Reg) (d : Word) :
    WrittenAs p (readOf r) (busCtl false 2#2) (p.regAddr r) d := by
  have hword : (readOf r).wellFormed p = true ∧ encode p (readOf r) = rdWord p r := by
    cases r with
    | ccr c | cndtr c | cpar c | cmar c => cases c <;> exact ⟨rfl, rfl⟩
    | _ => exact ⟨rfl, rfl⟩
  exact ⟨hword.1, 0#32, hword.2, fun _ hread => absurd rfl hread⟩

theorem writeOf_writtenAs (p : Params) (r : Reg) (d : Word) :
    WrittenAs p (writeOf d r) (busCtl true 2#2) (p.regAddr r) d := by
  have hword : (writeOf d r).wellFormed p = true ∧ encode p (writeOf d r) = wrWord p r d := by
    cases r with
    | ccr c | cndtr c | cpar c | cmar c => cases c <;> exact ⟨rfl, rfl⟩
    | _ => exact ⟨rfl, rfl⟩
  exact .of_encode hword.1 hword.2

/-- An 8-bit read has no data, and an 8-bit write has the byte it was decoded from. -/
theorem WrittenAs.of_byte {p : Params} {i : Instr} {write : Bool} {a d : Word}
    (hwf : i.wellFormed p = true) (hd : write = true → highZero d = true)
    (h : encode p i = opWord (busCtl write 0#2) a (if write then byteData (lowByte d) else 0#32)) :
    WrittenAs p i (busCtl write 0#2) a d := by
  cases write with
  | false => exact ⟨hwf, _, h, fun hread => absurd rfl hread⟩
  | true => exact .of_encode hwf (by rw [h, if_pos rfl, byteData_lowByte (hd rfl)])

theorem byteAccessOf_writtenAs {p : Params} {i : Instr} {write : Bool} {r : Reg} {d : Word}
    (hd : write = true → highZero d = true) (h : byteAccessOf write (lowByte d) r = some i) :
    WrittenAs p i (busCtl write 0#2) (p.regAddr r) d := by
  unfold byteAccessOf at h
  split at h
  · cases h; cases write <;> exact .of_byte rfl hd rfl
  · cases h; cases write <;> exact .of_byte rfl hd rfl
  · cases h

theorem decodeBus_writtenAs {p : Params} {i : Instr} {write : Bool} {sz : BitVec 2} {a d : Word}
    (h : decodeBus p write sz a d = .ok i) : WrittenAs p i (busCtl write sz) a d := by
  obtain ⟨rfl, hd, ⟨hram, rfl⟩ | ⟨r, rfl, hi⟩⟩ | ⟨rfl, r, rfl, rfl⟩ := decodeBus_ok p write h
  · cases write <;> exact .of_byte (decide_eq_true hram) hd rfl
  · exact byteAccessOf_writtenAs hd hi
  · cases write
    · exact readOf_writtenAs p r d
    · exact writeOf_writtenAs p r d

theorem noArg_writtenAs {p : Params} {i j : Instr} {ctl : BitVec 8} {d : Word}
    (h : noArg d j = .ok i) (hwf : j.wellFormed p = true)
    (henc : encode p j = opWord ctl 0#32 0#32) : WrittenAs p i ctl 0#32 d := by
  unfold noArg at h
  split at h
  · next hd => cases h; subst hd; exact .of_encode hwf henc
  · cases h

theorem byteArg_writtenAs {p : Params} {i : Instr} {f : Byte → Instr} {ctl : BitVec 8} {d : Word}
    (h : byteArg d f = .ok i) (hwf : ∀ b, (f b).wellFormed p = true)
    (henc : ∀ b, encode p (f b) = opWord ctl 0#32 (byteData b)) : WrittenAs p i ctl 0#32 d := by
  unfold byteArg at h
  split at h
  · next hd => cases h; exact .of_encode (hwf _) (by rw [henc, byteData_lowByte hd])
  · cases h

theorem decodeCmd_writtenAs {p : Params} {i : Instr} {cc : Nat} {a d : Word}
    (h : decodeCmd cc a d = .ok i) : WrittenAs p i (cmdCtl (BitVec.ofNat 6 cc)) a d := by
  unfold decodeCmd at h
  split at h
  · cases h
  next ha =>
  rw [not_not] at ha
  subst ha
  split at h
  · cases h; exact .of_encode rfl rfl
  · cases h; exact .of_encode rfl rfl
  · exact noArg_writtenAs h rfl rfl
  · exact noArg_writtenAs h rfl rfl
  · exact noArg_writtenAs h rfl rfl
  · exact byteArg_writtenAs h (fun _ => rfl) fun _ => rfl
  · exact noArg_writtenAs h rfl rfl
  · exact noArg_writtenAs h rfl rfl
  · exact noArg_writtenAs h rfl rfl
  · exact noArg_writtenAs h rfl rfl
  · exact noArg_writtenAs h rfl rfl
  · exact noArg_writtenAs h rfl rfl
  · exact byteArg_writtenAs h (fun _ => rfl) fun _ => rfl
  · exact noArg_writtenAs h rfl rfl
  · cases h

theorem decode_writtenAs {p : Params} {t : OpWord} {i : Instr} (h : decode p t = .ok i) :
    WrittenAs p i (ctlOf t) (addrOf t) (dataOf t) := by
  obtain hclass | hclass | hbus := class_cases (ctlOf t)
  · rw [decode_of_reservedClass p hclass] at h
    cases h
  · rw [decode_of_cmd p hclass] at h
    have hword := decodeCmd_writtenAs (p := p) h
    rwa [BitVec.ofNat_toNat, BitVec.setWidth_eq, ← eq_cmdCtl hclass] at hword
  · by_cases hzero : (ctlOf t).extractLsb' 2 4 = 0#4
    · rw [decode_of_bus p hbus hzero] at h
      rw [eq_busCtl hbus hzero]
      exact decodeBus_writtenAs h
    · rw [decode_of_nonzeroBits p hbus hzero] at h
      cases h

/-- Settles O2: the groups of the word the instruction is written as are those of `t`. -/
theorem acceptedWordsAreEncodings : Obligations.AcceptedWordsAreEncodings := by
  intro p t i h
  obtain ⟨hwf, d, henc, hd⟩ := decode_writtenAs h
  refine ⟨hwf, ?_, ?_, fun h8 h32 => ?_⟩
  · rw [henc, ctlOf_opWord]
  · rw [henc, addrOf_opWord]
  · rw [henc, hd h8 h32, opWord_groups]

/-! ## The order of the refusals -/

/-- Settles O3: each clause is one branch of the decoder, in the order of R106. -/
theorem decodeRefusesInOrder : Obligations.DecodeRefusesInOrder := by
  intro p t
  have hwide : t.extractLsb' 8 24 ≠ 0#24 → highZero (dataOf t) = false := fun hd =>
    Bool.eq_false_iff.2 (mt (highZero_dataOf t).1 hd)
  refine ⟨fun hclass => ?_, fun hbus => ?_, fun hclass => ?_⟩
  · exact decode_of_reservedClass p ((extract_ctlOf t (by decide)).trans hclass)
  · have hbit := (getLsbD_ctlOf t (k := 6) (by decide)).trans hbus
    have hfield := extract_ctlOf t (k := 2) (n := 4) (by decide)
    refine ⟨fun hzero => ?_, fun hzero => ?_⟩
    · exact decode_of_nonzeroBits p hbit fun h => hzero (hfield.symm.trans h)
    rw [decode_of_bus p hbit (hfield.trans hzero), getLsbD_ctlOf t (k := 7) (by decide),
      extract_ctlOf t (k := 0) (by decide)]
    simp only [← extract_addrOf t]
    refine ⟨fun hodd => ?_, fun hsz hwrite hd => ?_, fun hsz => ?_, fun hsz hd => ?_⟩
    · exact decodeBus_of_noWidth p _ (width_of_odd (by simpa using hodd))
    · rw [hsz, hwrite]
      exact decodeBus_of_wideByte p (hwide hd)
    · rw [hsz]
      refine ⟨fun hdma hsl hram => ?_, fun ha hal => ?_, fun ha hal => ?_, fun hp ha hal hno => ?_⟩
      · exact decodeBus_of_unmapped p _ (.inl rfl) hdma hsl hram
      · exact decodeBus_of_misaligned p _ (or_assoc.2 ha) hal
      · exact decodeBus_ram32 p _ ha hal
      · rw [decodeBus_reg32 p _ hp ha hal, decodeWordReg_of_noReg _ hno]
    · rw [hsz]
      have hbyte : t.getLsbD (64 + 7) = true → highZero (dataOf t) = true := fun hwrite =>
        (highZero_dataOf t).2 (hd hwrite)
      refine ⟨fun hdma hsl hram => ?_, fun r hp hlo hhi hr => ?_, fun hp ha hno => ?_⟩
      · exact decodeBus_of_unmapped p _ (.inr ⟨rfl, hbyte⟩) hdma hsl hram
      · rw [decodeBus_reg8 p _ hp (Params.inRegs_of_within_reg hp hlo hhi) hbyte,
          decodeByteReg_of_narrow hp _ hlo hhi hr]
      · rw [decodeBus_reg8 p _ hp ha hbyte, decodeByteReg_of_noReg hp _ hno]
  · rw [decode_of_cmd p ((extract_ctlOf t (by decide)).trans hclass), extract_ctlOf t (by decide)]
    refine ⟨fun ha => ?_, fun hcc => ?_, fun hcc hd => ?_, fun hcc hd => ?_⟩
    · exact decodeCmd_of_addr _ _ ha
    · exact decodeCmd_of_undefined _ _ hcc
    · exact decodeCmd_of_extraArg _ hcc hd
    · exact decodeCmd_of_wideArg _ hcc (hwide hd)

/-! ## Words from the tables -/

/-- A word that is the encoding of a well-formed instruction is read as that instruction. -/
theorem decodeTableWord_of_encode {n w : Nat} {i : Instr} (hwf : i.wellFormed .standard = true)
    (hw : encode .standard i = BitVec.ofNat 72 w) : decodeTableWord n w = some i := by
  rw [decodeTableWord, ← hw, decodeEncodeAgree .standard i (by decide) hwf]
  rfl

/-- Settles O4: each of the nine words is the encoding of its instruction. -/
theorem sampleWordsDecode : Obligations.SampleWordsDecode :=
  ⟨decodeTableWord_of_encode rfl rfl, decodeTableWord_of_encode rfl rfl,
    decodeTableWord_of_encode rfl rfl, decodeTableWord_of_encode rfl rfl,
    decodeTableWord_of_encode rfl rfl, decodeTableWord_of_encode rfl rfl,
    decodeTableWord_of_encode rfl rfl, decodeTableWord_of_encode rfl rfl,
    decodeTableWord_of_encode rfl rfl⟩

end Sys2Proof

/-!
The DMA registers (spec/40_dma_registers.md): one rule per access of a register, for both roles at
once (`readOf` and `writeOf` name the instruction of a register), from which each obligation is
read off role by role.
-/

namespace Sys2Proof

/-- The word of a 32-bit read (R107). -/
theorem encode_readOf (p : Params) (r : Reg) : encode p (readOf r) = rdWord p r := by
  cases r with
  | ccr c | cndtr c | cpar c | cmar c => cases c <;> rfl
  | _ => rfl

/-- The word of a 32-bit write (R107). -/
theorem encode_writeOf (p : Params) (r : Reg) (w : Word) :
    encode p (writeOf w r) = wrWord p r w := by
  cases r with
  | ccr c | cndtr c | cpar c | cmar c => cases c <;> rfl
  | _ => rfl

end Sys2Proof

namespace Sys2Proof.Machine

section
variable (s : State) (w : Word) (c : Role)

/-! ## What the instructions of the DMA registers run -/

theorem exec_rdDmaIsr : exec .rdDmaIsr s = .next (s.endMain (.word s.dmaIsr)) := rfl

theorem exec_wrDmaIfcr : exec (.wrDmaIfcr w) s = .next ((wrDmaIfcr w s).endMain .nothing) := rfl

theorem exec_readOf_ccr :
    exec (readOf (.ccr c)) s = .next (s.endMain (.word (s.chan c).ccrRead)) := by
  cases c <;> rfl

theorem exec_readOf_cndtr :
    exec (readOf (.cndtr c)) s = .next (s.endMain (.word ((s.chan c).ndt.setWidth 32))) := by
  cases c <;> rfl

theorem exec_readOf_cpar :
    exec (readOf (.cpar c)) s = .next (s.endMain (.word (s.chan c).cpar)) := by
  cases c <;> rfl

theorem exec_readOf_cmar :
    exec (readOf (.cmar c)) s = .next (s.endMain (.word (s.chan c).cmar)) := by
  cases c <;> rfl

theorem exec_writeOf_ccr : exec (writeOf w (.ccr c)) s = endWrite (wrCcr c w s) := by
  cases c <;> rfl

theorem exec_writeOf_cndtr : exec (writeOf w (.cndtr c)) s = endWrite (wrCndtr c w s) := by
  cases c <;> rfl

theorem exec_writeOf_cpar :
    exec (writeOf w (.cpar c)) s =
      endWrite (whileDisabled c .cpar { s.chan c with cpar := w } s) := by
  cases c <;> rfl

theorem exec_writeOf_cmar :
    exec (writeOf w (.cmar c)) s =
      endWrite (whileDisabled c .cmar { s.chan c with cmar := w } s) := by
  cases c <;> rfl

/-! ## Registers without storage, or without a write -/

/-- A write of a read-only register, of the DMA block or of the serial line. -/
theorem exec_writeOf_readOnly {r : Reg} (h : r = .dmaIsr ∨ r = .slIsr ∨ r = .slRdr) :
    exec (writeOf w r) s = .next (s.endMain .nothing) := by
  rcases h with rfl | rfl | rfl <;> rfl

theorem exec_wrSlRdr8 (b : Byte) : exec (.wrSlRdr8 b) s = .next (s.endMain .nothing) := rfl

/-- A read of a write-only register, of the DMA block or of the serial line. -/
theorem exec_readOf_writeOnly {r : Reg} (h : r = .dmaIfcr ∨ r = .slIcr) :
    exec (readOf r) s = .next (s.endMain (.word 0#32)) := by
  rcases h with rfl | rfl <;> rfl

end

/-- Settles O9: the three registers by one rule, and the 8-bit form of `SL_RDR`. -/
theorem readOnlyRegistersIgnoreWrites : Obligations.ReadOnlyRegistersIgnoreWrites := by
  intro s w b
  exact ⟨⟨exec_writeOf_readOnly s w (.inl rfl), encode_writeOf s.params .dmaIsr w⟩,
    ⟨exec_writeOf_readOnly s w (.inr (.inl rfl)), encode_writeOf s.params .slIsr w⟩,
    ⟨exec_writeOf_readOnly s w (.inr (.inr rfl)), encode_writeOf s.params .slRdr w⟩,
    ⟨exec_wrSlRdr8 s b, rfl⟩⟩

/-- Settles O10: both registers by one rule. -/
theorem writeOnlyRegistersReadZero : Obligations.WriteOnlyRegistersReadZero := by
  intro s
  exact ⟨⟨exec_readOf_writeOnly s (.inl rfl), encode_readOf s.params .dmaIfcr⟩,
    ⟨exec_readOf_writeOnly s (.inr rfl), encode_readOf s.params .slIcr⟩⟩

/-! ## The shared pair `DMA_ISR` and `DMA_IFCR` (R25, R26, R130, R133) -/

theorem getLsbD_bitAt (b : Bool) {j : Nat} (hj : j < 32) (k : Nat) :
    (bitAt b j).getLsbD k = (decide (k = j) && b) := by
  cases b with
  | false => simp [bitAt]
  | true =>
    have htwo : bitAt true j = BitVec.twoPow 32 j := rfl
    rw [htwo, BitVec.getLsbD_twoPow, decide_eq_true hj, Bool.true_and, Bool.and_true]
    exact decide_eq_decide.2 eq_comm

/-- The bits a role shows (R25); they lie in the word, as its channel number is at most 7. -/
theorem getLsbD_chanFlags {p : Params} (hp : p.Wf) (c : Role) (x : Chan) (k : Nat) :
    (chanFlags p c x).getLsbD k =
      ((decide (k = gifBit p c) || decide (k = tcBit p c)) && x.tcif) := by
  obtain ⟨hlo, hhi⟩ := Params.channel_bounds hp c
  have htc : tcBit p c < 32 := by unfold tcBit; omega
  have hgif : gifBit p c < 32 := by unfold gifBit; omega
  rw [chanFlags, BitVec.getLsbD_or, getLsbD_bitAt _ htc, getLsbD_bitAt _ hgif, Bool.or_comm,
    Bool.and_or_distrib_right]

/-- Settles O8: the word is the flags of the one role or those of the other. -/
theorem readSharedStatus : Obligations.ReadSharedStatus := by
  intro s hp
  refine ⟨s.dmaIsr, exec_rdDmaIsr s, fun k => ?_⟩
  rw [State.dmaIsr, BitVec.getLsbD_or, getLsbD_chanFlags hp, getLsbD_chanFlags hp]
  rfl

/-- Settles O11, by what `wrDmaIfcr` makes of the flag of each role. -/
theorem clearCompletionFlags : Obligations.ClearCompletionFlags :=
  fun s w => exec_wrDmaIfcr s w

/-! ## Reading the registers of a channel (R134, R140, R142, R144) -/

theorem getLsbD_ccrMask (k : Nat) :
    ccrMask.getLsbD k = decide (k = 0 ∨ k = 1 ∨ k = 4 ∨ k = 12 ∨ k = 13) := by
  have hlow : ∀ k < 32,
      ccrMask.getLsbD k = decide (k = 0 ∨ k = 1 ∨ k = 4 ∨ k = 12 ∨ k = 13) := by decide
  by_cases hk : k < 32
  · exact hlow k hk
  · rw [BitVec.getLsbD_of_ge _ _ (by omega), decide_eq_false (by omega)]

theorem getLsbD_ccrRead (x : Chan) (k : Nat) :
    x.ccrRead.getLsbD k =
      (decide (k = 0 ∨ k = 1 ∨ k = 4 ∨ k = 12 ∨ k = 13) && x.ccr.getLsbD k) := by
  rw [Chan.ccrRead, BitVec.getLsbD_and, getLsbD_ccrMask, Bool.and_comm]

/-- Settles O12: register by register, each by the rule of its read. -/
theorem readChannelRegisters : Obligations.ReadChannelRegisters := by
  intro s
  have hword := encode_readOf s.params
  exact ⟨⟨hword (.ccr .rx), _, exec_readOf_ccr s .rx, getLsbD_ccrRead s.rx⟩,
    ⟨hword (.ccr .tx), _, exec_readOf_ccr s .tx, getLsbD_ccrRead s.tx⟩,
    ⟨hword (.cndtr .rx), exec_readOf_cndtr s .rx⟩, ⟨hword (.cndtr .tx), exec_readOf_cndtr s .tx⟩,
    ⟨hword (.cpar .rx), exec_readOf_cpar s .rx⟩, ⟨hword (.cpar .tx), exec_readOf_cpar s .tx⟩,
    ⟨hword (.cmar .rx), exec_readOf_cmar s .rx⟩, ⟨hword (.cmar .tx), exec_readOf_cmar s .tx⟩⟩

/-! ## Writing the count and the addresses (R139, R141, R143, R145) -/

section
variable {s : State} {c : Role}

theorem whileDisabled_of_enabled {r : ChanReg} {x : Chan} (he : (s.chan c).en = true) :
    whileDisabled c r x s = .fault (.enabledChannelMutation c r) := if_pos he

/-- The upper half of a word is 0 where the word is a count. -/
theorem extract_high_eq_zero_iff (w : Word) : w.extractLsb' 16 16 = 0#16 ↔ w.toNat < 65536 := by
  rw [← BitVec.toNat_inj]
  simp only [BitVec.extractLsb'_toNat, BitVec.toNat_ofNat, Nat.shiftRight_eq_div_pow]
  omega

theorem wrCndtr_of_wide {w : Word} (hw : 65536 ≤ w.toNat) :
    wrCndtr c w s = .refused .reservedBits :=
  if_pos (mt (extract_high_eq_zero_iff w).1 (by omega))

theorem wrCndtr_of_narrow {w : Word} (hw : w.toNat < 65536) :
    wrCndtr c w s = whileDisabled c .cndtr { s.chan c with ndt := w.extractLsb' 0 16 } s :=
  if_neg (not_not.2 ((extract_high_eq_zero_iff w).2 hw))

theorem wrCndtr_setWidth (n : BitVec 16) :
    wrCndtr c (n.setWidth 32) s = whileDisabled c .cndtr { s.chan c with ndt := n } s := by
  have hlow : (n.setWidth 32).extractLsb' 0 16 = n := by
    apply BitVec.eq_of_toNat_eq
    simp only [BitVec.extractLsb'_toNat, BitVec.toNat_setWidth, Nat.shiftRight_zero]
    omega
  rw [wrCndtr_of_narrow (by rw [BitVec.toNat_setWidth]; omega), hlow]

/-- The three writes on a disabled channel, of either role. -/
theorem writes_of_disabled (he : (s.chan c).en = false) (w : Word) (n : BitVec 16) :
    exec (writeOf (n.setWidth 32) (.cndtr c)) s =
      .next ((s.setChan c { s.chan c with ndt := n }).endMain .nothing) ∧
    exec (writeOf w (.cpar c)) s =
      .next ((s.setChan c { s.chan c with cpar := w }).endMain .nothing) ∧
    exec (writeOf w (.cmar c)) s =
      .next ((s.setChan c { s.chan c with cmar := w }).endMain .nothing) := by
  refine ⟨?_, ?_, ?_⟩
  · rw [exec_writeOf_cndtr, wrCndtr_setWidth, whileDisabled_of_disabled he]; rfl
  · rw [exec_writeOf_cpar, whileDisabled_of_disabled he]; rfl
  · rw [exec_writeOf_cmar, whileDisabled_of_disabled he]; rfl

/-- The three writes on an enabled channel, of either role. -/
theorem writes_of_enabled (he : (s.chan c).en = true) (w : Word) :
    (w.toNat < 65536 →
      exec (writeOf w (.cndtr c)) s = .fault (.enabledChannelMutation c .cndtr)) ∧
    exec (writeOf w (.cpar c)) s = .fault (.enabledChannelMutation c .cpar) ∧
    exec (writeOf w (.cmar c)) s = .fault (.enabledChannelMutation c .cmar) := by
  refine ⟨fun hw => ?_, ?_, ?_⟩
  · rw [exec_writeOf_cndtr, wrCndtr_of_narrow hw, whileDisabled_of_enabled he]; rfl
  · rw [exec_writeOf_cpar, whileDisabled_of_enabled he]; rfl
  · rw [exec_writeOf_cmar, whileDisabled_of_enabled he]; rfl

theorem exec_writeOf_cndtr_of_wide {w : Word} (hw : 65536 ≤ w.toNat) :
    exec (writeOf w (.cndtr c)) s = .refused .reservedBits := by
  rw [exec_writeOf_cndtr, wrCndtr_of_wide hw]; rfl

end

/-- Settles O15, role by role. -/
theorem writeCountsAndAddressesComplete : Obligations.WriteCountsAndAddressesComplete := by
  intro s w n
  exact ⟨fun he => writes_of_disabled (c := .rx) he w n,
    fun he => writes_of_disabled (c := .tx) he w n⟩

/-- Settles O16, role by role: the width of the count is checked first. -/
theorem enabledChannelMutationFaults : Obligations.EnabledChannelMutationFaults := by
  intro s w
  exact ⟨fun hw => ⟨exec_writeOf_cndtr_of_wide (c := .rx) hw,
      exec_writeOf_cndtr_of_wide (c := .tx) hw⟩,
    fun he => writes_of_enabled (c := .rx) he w, fun he => writes_of_enabled (c := .tx) he w⟩

/-! ## Writing the configuration (R135 to R138, R145) -/

/-- `LegalConfig` of R136, field by field. -/
theorem legalConfig_iff {p : Params} {c : Role} {x : Chan} {w : Word} :
    legalConfig p c x w = true ↔
      w.getLsbD 4 = dirOf c ∧ x.cpar = p.regAddr (dataReg c) ∧ x.cmar = p.cellAddr c := by
  simp [legalConfig, and_assoc]

theorem and_eq_self_of_and_not {w m : Word} (h : w &&& ~~~m = 0#32) : w &&& m = w := by
  calc w &&& m = (w &&& m) ||| (w &&& ~~~m) := by rw [h, BitVec.or_zero]
    _ = w &&& (m ||| ~~~m) := by rw [BitVec.and_or_distrib_left]
    _ = w := by rw [BitVec.or_not_self, BitVec.and_allOnes]

/-- What R145 compares, `DIR` and `PL` being the fields besides `EN` and `TCIE`. -/
theorem live_agree_iff {x : Chan} {w : Word} (hr : w &&& ~~~ccrMask = 0#32) :
    w &&& ~~~ccrLiveMask = x.ccrRead &&& ~~~ccrLiveMask ↔
      w &&& 0x3010#32 = x.ccr &&& 0x3010#32 := by
  have hmask : ccrMask &&& ~~~ccrLiveMask = 0x3010#32 := by decide
  have hw : w &&& ~~~ccrLiveMask = w &&& 0x3010#32 := by
    rw [← hmask, ← BitVec.and_assoc, and_eq_self_of_and_not hr]
  rw [hw, Chan.ccrRead, BitVec.and_assoc, hmask]

section
variable {s : State} {c : Role} {w : Word}

theorem wrCcr_of_reserved (hr : w &&& ~~~ccrMask ≠ 0#32) :
    wrCcr c w s = .refused .reservedBits := if_pos hr

theorem wrCcr_of_mutation (hr : w &&& ~~~ccrMask = 0#32) (he : (s.chan c).en = true)
    (hm : w &&& 0x3010#32 ≠ (s.chan c).ccr &&& 0x3010#32) :
    wrCcr c w s = .fault (.enabledChannelMutation c .ccr) := by
  rw [wrCcr, if_neg (not_not.2 hr), if_pos ⟨he, mt (live_agree_iff hr).1 hm⟩]

theorem wrCcr_of_illegal (hr : w &&& ~~~ccrMask = 0#32) (he : (s.chan c).en = false)
    (hw : w.getLsbD 0 = true) (hl : ¬ legalConfig s.params c (s.chan c) w = true) :
    wrCcr c w s = .refused .illegalChannelConfig := by
  rw [wrCcr, if_neg (not_not.2 hr), if_neg (by simp [he]),
    if_pos ⟨he, hw, Bool.eq_false_iff.2 hl⟩]

theorem wrCcr_of_count (hr : w &&& ~~~ccrMask = 0#32) (he : (s.chan c).en = false)
    (hw : w.getLsbD 0 = true) (hl : legalConfig s.params c (s.chan c) w = true)
    (hn : 2 ≤ (s.chan c).ndt.toNat) : wrCcr c w s = .refused .unsupportedCount := by
  rw [wrCcr, if_neg (not_not.2 hr), if_neg (by simp [he]), if_neg (by simp [hl]),
    if_pos ⟨he, hw, hn⟩]

/-- The write completes, of either role, with its conditions as R135 to R138 name them. -/
theorem exec_writeOf_ccr_completes (hr : w &&& ~~~ccrMask = 0#32)
    (hm : (s.chan c).en = true → w &&& 0x3010#32 = (s.chan c).ccr &&& 0x3010#32)
    (hl : (s.chan c).en = false → w.getLsbD 0 = true →
      w.getLsbD 4 = dirOf c ∧ (s.chan c).cpar = s.params.regAddr (dataReg c) ∧
        (s.chan c).cmar = s.params.cellAddr c ∧ ((s.chan c).ndt = 0#16 ∨ (s.chan c).ndt = 1#16)) :
    exec (writeOf w (.ccr c)) s =
      .next ((s.setChan c { s.chan c with ccr := w }).endMain .nothing) := by
  rw [exec_writeOf_ccr, wrCcr_completes hr]
  · rfl
  · exact fun he => (live_agree_iff hr).2 (hm he)
  · intro he hw
    obtain ⟨hdir, hpar, hmar, hcount⟩ := hl he hw
    refine ⟨legalConfig_iff.2 ⟨hdir, hpar, hmar⟩, ?_⟩
    rcases hcount with h | h <;> simp [h]

theorem exec_writeOf_ccr_of_reserved (hr : w &&& ~~~ccrMask ≠ 0#32) :
    exec (writeOf w (.ccr c)) s = .refused .reservedBits := by
  rw [exec_writeOf_ccr, wrCcr_of_reserved hr]; rfl

theorem exec_writeOf_ccr_of_mutation (hr : w &&& ~~~ccrMask = 0#32) (he : (s.chan c).en = true)
    (hm : w &&& 0x3010#32 ≠ (s.chan c).ccr &&& 0x3010#32) :
    exec (writeOf w (.ccr c)) s = .fault (.enabledChannelMutation c .ccr) := by
  rw [exec_writeOf_ccr, wrCcr_of_mutation hr he hm]; rfl

/-- The two refusals of an enabling write, of either role. -/
theorem exec_writeOf_ccr_of_enabling (hr : w &&& ~~~ccrMask = 0#32) (hw : w.getLsbD 0 = true)
    (he : (s.chan c).en = false) :
    (¬ (w.getLsbD 4 = dirOf c ∧ (s.chan c).cpar = s.params.regAddr (dataReg c) ∧
        (s.chan c).cmar = s.params.cellAddr c) →
      exec (writeOf w (.ccr c)) s = .refused .illegalChannelConfig) ∧
    (w.getLsbD 4 = dirOf c ∧ (s.chan c).cpar = s.params.regAddr (dataReg c) ∧
        (s.chan c).cmar = s.params.cellAddr c → 2 ≤ (s.chan c).ndt.toNat →
      exec (writeOf w (.ccr c)) s = .refused .unsupportedCount) := by
  rw [exec_writeOf_ccr, ← legalConfig_iff]
  refine ⟨fun hl => ?_, fun hl hn => ?_⟩
  · rw [wrCcr_of_illegal hr he hw hl]; rfl
  · rw [wrCcr_of_count hr he hw hl hn]; rfl

end

/-- Settles O13, role by role. -/
theorem writeChannelConfigurationCompletes : Obligations.WriteChannelConfigurationCompletes := by
  intro s w hr
  exact ⟨exec_writeOf_ccr_completes (c := .rx) hr, exec_writeOf_ccr_completes (c := .tx) hr⟩

/-- Settles O14: each check in its turn, role by role. -/
theorem writeChannelConfigurationStops : Obligations.WriteChannelConfigurationStops := by
  intro s w
  refine ⟨fun hr => ⟨exec_writeOf_ccr_of_reserved (c := .rx) hr,
    exec_writeOf_ccr_of_reserved (c := .tx) hr⟩, fun hr => ⟨?_, ?_, ?_, ?_⟩⟩
  · exact exec_writeOf_ccr_of_mutation (c := .rx) hr
  · exact exec_writeOf_ccr_of_mutation (c := .tx) hr
  · exact exec_writeOf_ccr_of_enabling (c := .rx) hr
  · exact exec_writeOf_ccr_of_enabling (c := .tx) hr

end Sys2Proof.Machine

/-!
The transfer engine (spec/41_transfer_engine.md): the derived channel states, the arbiter and the
transfer, and the sequences `ARM(c)` and `DISARM(c)`.  A sequence is followed once, for either role
and for whatever context runs it (`Runs`): `MAIN` in one of several commands, or a handler.
-/

namespace Sys2Proof.Machine

/-! ## Channel states and interrupt lines (R171, R173, R184, R233) -/

/-- Settles O34: the two lines are written from the bits they name. -/
theorem interruptLines : Obligations.InterruptLines := by
  intro s
  constructor
  · simp [State.irqDma, Chan.tcie]
  · simp [Serial.irqErr, Serial.eie, Serial.peie, or_assoc]

/-- A count of 0 or 1 leaves an enabled channel Armed or Exhausted. -/
theorem ChanInv.count_cases {p : Params} {c : Role} {x : Chan} (h : ChanInv p c x)
    (he : x.en = true) : x.ndt = 0#16 ∨ x.ndt = 1#16 := by
  have hcount := h.count he
  simp only [← BitVec.toNat_inj, BitVec.toNat_ofNat]
  omega

/-- Settles O53: a channel that is off is Disabled, one that is on has a count of 1 or of 0. -/
theorem exactlyOneChannelState : Obligations.ExactlyOneChannelState := by
  intro s c hinv
  cases he : (s.chan c).en with
  | false => simp [Chan.disabled, Chan.armed, Chan.exhausted, he]
  | true =>
    obtain hn | hn := (hinv.chan c).count_cases he <;>
      simp [Chan.disabled, Chan.armed, Chan.exhausted, he, hn]

/-! ## Requests and the arbiter (R174 to R177) -/

theorem armed_iff (x : Chan) : x.armed = true ↔ x.ccr.getLsbD 0 = true ∧ x.ndt = 1#16 := by
  simp [Chan.armed, Chan.en]

theorem request_iff (l : Serial) (c : Role) :
    l.request c = true ↔
      l.cr1.getLsbD 0 = true ∧
      (c = .rx → l.cr1.getLsbD 2 = true ∧ l.cr3.getLsbD 6 = true ∧ l.rxne = true) ∧
      (c = .tx → l.cr1.getLsbD 3 = true ∧ l.cr3.getLsbD 7 = true ∧ l.txe = true) := by
  cases c with
  | rx => simp [Serial.request, Serial.ue, Serial.re, Serial.dmar, and_assoc]
  | tx => simp [Serial.request, Serial.ue, Serial.te, Serial.dmat, and_assoc]

theorem ready_iff (s : State) (c : Role) :
    s.ready c = true ↔ (s.chan c).armed = true ∧ s.sl.request c = true := by
  simp [State.ready]

theorem granted_ready {s : State} {c : Role} (h : s.granted c = true) : s.ready c = true :=
  (Bool.and_eq_true_iff.1 (h : (_ && _) = true)).1

/-- With both channels ready the `FIXED` arbiter alone decides (R177). -/
theorem granted_fixed {s : State} (hrx : s.ready .rx = true) (htx : s.ready .tx = true)
    (hp : s.params.arbPolicy = .fixed) (c : Role) :
    s.granted c = decide (s.fixedGrant = c) := by
  cases c <;> simp [State.granted, hrx, htx, hp]

/-- Where the `FIXED` arbiter does not have to decide, ready is granted (R177). -/
theorem granted_of_no_conflict {s : State} {c : Role} (hc : s.ready c = true)
    (h : ¬ (s.params.arbPolicy = .fixed ∧ s.ready .rx = true ∧ s.ready .tx = true)) :
    s.granted c = true := by
  rw [State.granted, hc, if_neg h, Bool.true_and]

/-- The turn of a channel is its transfer, where it is granted (R176). -/
theorem step_of_granted {s : State} {c : Role} (hf : s.faultMark = none)
    (hr : s.refusedMark = none) (hturn : s.nextTurn = .ch c) (hg : s.granted c = true) :
    step s = .next (record s.afterTurn (xfer c s.afterTurn)) := by
  rw [step_of_unmarked hf hr, hturn, agentStep, granted_afterTurn, if_pos hg]

theorem step_of_not_granted {s : State} {c : Role} (hf : s.faultMark = none)
    (hr : s.refusedMark = none) (hturn : s.nextTurn = .ch c) (hg : s.granted c = false) :
    step s = .next s.afterTurn := by
  rw [step_of_unmarked hf hr, hturn, agentStep, granted_afterTurn, if_neg (by simp [hg])]
  rfl

/-- Settles O29: Armed and the request line, each by its bits; a turn that is not granted passes. -/
theorem transferNeedsRequest : Obligations.TransferNeedsRequest := by
  intro s c
  refine ⟨?_, granted_ready, step_of_not_granted⟩
  rw [ready_iff, armed_iff, request_iff, and_assoc]

/-- Settles O30: with both ready the role `fixedGrant` names, which the order of its three tests
gives; in every other case the arbiter does not decide. -/
theorem arbiterGrants : Obligations.ArbiterGrants := by
  intro s _
  refine ⟨fun hrx htx hp => ?_, fun hrx htx hp => ?_, fun c d hcd hc hd => ?_⟩
  · have hg := granted_fixed hrx htx hp
    refine ⟨?_, fun hlt => ?_, fun hlt => ?_, fun heq => ?_⟩
    · rw [hg, hg]
      cases s.fixedGrant <;> rfl
    · have hpl : s.tx.pl < s.rx.pl := hlt
      simp [hg, State.fixedGrant, hpl]
    · have hpl : s.rx.pl < s.tx.pl := hlt
      simp [hg, State.fixedGrant, hpl, BitVec.lt_asymm hpl]
    · have hpl : s.rx.pl = s.tx.pl := heq
      simp [hg, State.fixedGrant, hpl]
  · have hfree : ¬ (s.params.arbPolicy = .fixed ∧ s.ready .rx = true ∧ s.ready .tx = true) := by
      simp [hp]
    exact ⟨granted_of_no_conflict hrx hfree, granted_of_no_conflict htx hfree⟩
  · refine granted_of_no_conflict hc fun ⟨_, hrx, htx⟩ => ?_
    cases d with
    | rx => rw [hrx] at hd; cases hd
    | tx => rw [htx] at hd; cases hd

/-! ## The transfer (R178) -/

theorem xfer_rx_of_inRam {s : State} (hr : s.params.inRam s.rx.cmar) :
    xfer .rx s = .next { s with
      rx := s.rx.complete
      sl := { s.sl with rxne := false }
      mem := Memory.set s.mem s.rx.cmar.toNat s.sl.rdr } := by
  unfold xfer
  dsimp only
  rw [memWrite8_of_inRam s.sl.rdr (by simpa using hr), andThen_of_next]
  rfl

theorem xfer_tx_of_byte {s : State} {b : Byte} (hr : s.params.inRam s.tx.cmar)
    (hb : s.byteAt s.tx.cmar = some b) :
    xfer .tx s = .next { s with
      tx := s.tx.complete
      sl := { s.sl with tdr := b, txe := false } } := by
  unfold xfer
  dsimp only
  rw [memRead8_of_byte hr hb, andThen_of_next]
  rfl

theorem xfer_tx_of_unwritten {s : State} (hr : s.params.inRam s.tx.cmar)
    (hb : s.byteAt s.tx.cmar = none) : xfer .tx s = .fault (.unwrittenRead s.tx.cmar) := by
  unfold xfer
  dsimp only
  rw [memRead8_of_unwritten hr hb, andThen_of_fault]

/-- Settles O28: the turn of a granted channel is its transfer, and the read-after-write laws say
what the receive transfer makes of the memory. -/
theorem transferSteps : Obligations.TransferSteps := by
  intro s hf hm
  have hbyte (a : Word) : s.afterTurn.byteAt a = s.byteAt a := byteAt_of_mem (afterTurn_mem s) a
  refine ⟨fun hturn hg hr => ?_, fun hturn hg hr => ⟨fun b hb => ?_, fun hb => ?_⟩⟩
  · refine ⟨Memory.set s.mem s.rx.cmar.toNat s.sl.rdr, ?_, byteAt_set_same s _ _,
      fun x hx => byteAt_set_other s _ x _ hx⟩
    rw [step_of_granted hf hm hturn hg, xfer_rx_of_inRam (by simpa using hr)]
    simp [record, Chan.complete]
  · rw [step_of_granted hf hm hturn hg,
      xfer_tx_of_byte (b := b) (by simpa using hr) (by simpa [hbyte] using hb)]
    simp [record, Chan.complete]
  · rw [step_of_granted hf hm hturn hg,
      xfer_tx_of_unwritten (by simpa using hr) (by simpa [hbyte] using hb)]
    simp [record]

/-! ## Who sets a completion flag (R25, R176, R182) -/

/-- No access of the `CPU` sets a completion flag: a write of `DMA_IFCR` only clears (R133). -/
theorem Access.tcif {s t : State} (h : Access s t) (c : Role) (ht : (t.chan c).tcif = true) :
    (s.chan c).tcif = true := by
  cases h with
  | ccr d | whileDisabled d => cases c <;> cases d <;> simpa using ht
  | clearCompletion w =>
    have hmasked : ((s.chan c).clearFlag s.params c w).tcif = true := by cases c <;> exact ht
    exact (Bool.and_eq_true_iff.1 hmasked).1
  | _ => cases c <;> exact ht

theorem CpuMove.tcif {s t : State} (h : CpuMove s t) (c : Role) (ht : (t.chan c).tcif = true) :
    (s.chan c).tcif = true := by
  cases h with
  | pass => exact ht
  | main _ _ ha | dma _ ha _ | err _ ha => exact ha.tcif c (by cases c <;> exact ht)

/-- A transfer completes its own channel and leaves the other (R178). -/
theorem xfer_chan {c d : Role} {s t : State} (hx : xfer c s = .next t) (hd : d ≠ c) :
    t.chan d = s.chan d := by
  obtain ⟨rfl, -, rfl⟩ | ⟨rfl, -, b, -, rfl⟩ := xfer_next hx
  · cases d with
    | rx => exact absurd rfl hd
    | tx => rfl
  · cases d with
    | rx => rfl
    | tx => exact absurd rfl hd

/-- A turn that sets a completion flag is its channel's own. -/
theorem TurnMove.tcif {s t : State} {turn : Turn} (h : TurnMove s turn t) {c : Role}
    (hs : (s.chan c).tcif = false) (ht : (t.chan c).tcif = true) : turn = .ch c := by
  have hkept (hst : (s.chan c).tcif = true) : turn = .ch c := by rw [hs] at hst; cases hst
  cases h with
  | transfer d hx =>
    by_cases hd : c = d
    · rw [hd]
    · exact hkept (xfer_chan hx hd ▸ ht)
  | cpu pick hm => exact hkept (hm.tcif c ht)
  | _ => exact hkept (by cases c <;> exact ht)

/-- Settles O31: by the shapes of a turn it is the channel's own, and if the channel were not
granted the turn would pass. -/
theorem onlyTransfersSetCompletionFlags : Obligations.OnlyTransfersSetCompletionFlags := by
  intro s t c hstep hs ht
  obtain ⟨hf, hr, hm⟩ := step_move hstep
  have hafter : s.afterTurn.chan c = s.chan c := by cases c <;> simp
  have hturn : s.nextTurn = .ch c := hm.tcif (by rwa [hafter]) ht
  refine ⟨hturn, ?_⟩
  by_contra hg
  rw [step_of_not_granted hf hr hturn (Bool.eq_false_iff.2 hg)] at hstep
  cases hstep
  rw [hafter, hs] at ht
  cases ht

/-! ## Clearing one completion flag (R190) -/

theorem ofNat_two_pow (k : Nat) : BitVec.ofNat 32 (2 ^ k) = bitAt true k := by
  apply BitVec.eq_of_toNat_eq
  simp [bitAt, Nat.shiftLeft_eq]

theorem tcBit_lt {p : Params} (hp : p.Wf) (c : Role) : tcBit p c < 32 := by
  have := Params.channel_bounds hp c
  unfold tcBit
  omega

/-- Bit `TC(c)` clears the flag of `c` (R133). -/
theorem clearFlag_own_bit {p : Params} (hp : p.Wf) (c : Role) (x : Chan) :
    x.clearFlag p c (bitAt true (tcBit p c)) = { x with tcif := false } := by
  simp [Chan.clearFlag, getLsbD_bitAt true (tcBit_lt hp c)]

/-- Bit `TC(c)` is no bit of another role, whose channel number is different (R133). -/
theorem clearFlag_other_bit {p : Params} (hp : p.Wf) {c d : Role} (hdc : d ≠ c) (x : Chan) :
    x.clearFlag p d (bitAt true (tcBit p c)) = x := by
  have hc := Params.channel_bounds hp c
  have hd := Params.channel_bounds hp d
  have hne : p.channel d ≠ p.channel c := fun h => hdc (by
    rw [← Params.roleOf_channel hp d, h, Params.roleOf_channel hp c])
  have htc : tcBit p d ≠ tcBit p c := by unfold tcBit; omega
  have hgif : gifBit p d ≠ tcBit p c := by unfold gifBit tcBit; omega
  simp [Chan.clearFlag, getLsbD_bitAt true (tcBit_lt hp c), htc, hgif]

/-- The write of bit `TC(c)` to `DMA_IFCR` (R133, R190). -/
theorem wrDmaIfcr_own_bit {s : State} (hp : s.params.Wf) (c : Role) :
    wrDmaIfcr (bitAt true (tcBit s.params c)) s =
      s.setChan c { s.chan c with tcif := false } := by
  cases c <;>
    simp [wrDmaIfcr, clearFlag_own_bit hp, clearFlag_other_bit hp]

/-- Settles O27: each command is one write of its own bit. -/
theorem clearFlagCommands : Obligations.ClearFlagCommands := by
  intro s hp
  refine ⟨⟨rfl, ?_, ?_⟩, ⟨rfl, ?_, ?_⟩⟩
  · rw [ofNat_two_pow]; rfl
  · exact congrArg (fun u => Host.Outcome.next (u.endMain .nothing)) (wrDmaIfcr_own_bit hp .rx)
  · rw [ofNat_two_pow]; rfl
  · exact congrArg (fun u => Host.Outcome.next (u.endMain .nothing)) (wrDmaIfcr_own_bit hp .tx)

/-! ## A sequence inside the context that runs it -/

@[simp] theorem setChan_setChan (s : State) (c : Role) (x y : Chan) :
    (s.setChan c x).setChan c y = s.setChan c y := by cases c <;> rfl

@[simp] theorem setChan_chan_self (s : State) (c : Role) : s.setChan c (s.chan c) = s := by
  cases c <;> rfl

theorem repeatOut_succ_of_next {f : State → Out State} {s t : State} (h : f s = .next t) (k : Nat) :
    repeatOut f (k + 1) s = repeatOut f k t := by
  rw [repeatOut, h, andThen_of_next]

/-- `f` runs the sequence `run`, on channel `c`, inside a context: `put (some k) t u` is `u` with
the context at step `k` with temporaries `t`, and `put none t u` with the sequence done. -/
structure Runs {κ : Type} (c : Role) (run : κ → Temps → State → Micro κ) (f : State → Out State)
    (put : Option κ → Temps → State → State) : Prop where
  micro : ∀ k t u, f (put (some k) t u) =
    andThen (run k t (put (some k) t u)) fun r => .next (put r.1 r.2.1 r.2.2)
  params : ∀ k t u, (put (some k) t u).params = u.params
  chan : ∀ k t u, (put (some k) t u).chan c = u.chan c
  setChan : ∀ k t k' t' u x,
    put k' t' ((put (some k) t u).setChan c x) = put k' t' (u.setChan c x)

/-- One micro-step, where the sequence changes no more than its channel. -/
theorem Runs.advance {κ : Type} {c : Role} {run : κ → Temps → State → Micro κ}
    {f : State → Out State} {put : Option κ → Temps → State → State} (h : Runs c run f put)
    {k : κ} {k' : Option κ} {t t' : Temps} {u : State} {x : Chan}
    (hrun : run k t (put (some k) t u) = .next (k', t', (put (some k) t u).setChan c x)) :
    f (put (some k) t u) = .next (put k' t' (u.setChan c x)) := by
  rw [h.micro, hrun, andThen_of_next]
  exact congrArg _ (h.setChan k t k' t' u x)

/-- `MAIN` inside the sequence of a command that ends without a result. -/
def mainPut {κ : Type} (i : Instr) (wrap : κ → MainPos) : Option κ → Temps → State → State
  | some k, t, u => u.mainAt i (wrap k) t
  | none, _, u => u.endMain .nothing

/-- `MAIN` keeps its word, and an idle `MAIN` gets the word of the command. -/
theorem mainAt_setChan_mainAt (u : State) (c : Role) (x : Chan) (i : Instr) (pos pos' : MainPos)
    (t t' : Temps) :
    ((u.mainAt i pos t).setChan c x).mainAt i pos' t' = (u.setChan c x).mainAt i pos' t' := by
  unfold State.mainAt
  cases hm : u.main <;> cases c <;> simp [hm]

theorem endMain_setChan_mainAt (u : State) (c : Role) (x : Chan) (i : Instr) (pos : MainPos)
    (t : Temps) (r : Result) :
    ((u.mainAt i pos t).setChan c x).endMain r = (u.setChan c x).endMain r := by
  unfold State.mainAt
  cases u.main <;> cases c <;> rfl

/-- A command whose meaning is `mainStep` of a sequence runs that sequence. -/
theorem runs_main {κ : Type} {c : Role} {run : κ → Temps → State → Micro κ} {i : Instr}
    {wrap : κ → MainPos} {f : State → Out State}
    (hf : ∀ (k : κ) (t : Temps) (u : State), f (u.mainAt i (wrap k) t) =
      mainStep i wrap (fun _ => .nothing) (run k) (u.mainAt i (wrap k) t)) :
    Runs c run f (mainPut i wrap) where
  micro k t u := by
    rw [mainPut, hf, mainStep, mainAt_mainTemps]
    refine congrArg _ (funext fun r => ?_)
    obtain ⟨k', t', u'⟩ := r
    cases k' <;> rfl
  params k t u := mainAt_params u i (wrap k) t
  chan k t u := by cases c <;> simp [mainPut]
  setChan k t k' t' u x := by
    cases k' with
    | none => exact endMain_setChan_mainAt u c x i (wrap k) t .nothing
    | some k' => exact mainAt_setChan_mainAt u c x i (wrap k) (wrap k') t t'

/-! ## `DISARM(c)` (R189) -/

/-- A channel with `EN` cleared by a write of the rest of what `CCR` reads (R186, R189). -/
def Chan.disarm (x : Chan) : Chan := { x with ccr := x.ccrRead &&& ~~~0x1#32 }

@[simp] theorem disarm_en (x : Chan) : x.disarm.en = false := by
  simp [Chan.disarm, Chan.en]

/-- `EN` cleared, `TCIE`, `DIR` and `PL` kept (R189). -/
theorem disarm_eq (x : Chan) : x.disarm = { x with ccr := x.ccr &&& 0x3012#32 } := by
  have hmask : ccrMask &&& ~~~0x1#32 = 0x3012#32 := by decide
  rw [Chan.disarm, Chan.ccrRead, BitVec.and_assoc, hmask]

/-- Writing `CCR[c]` back with `EN` cleared completes in every state of the channel (R135). -/
theorem wrCcr_disarm (c : Role) (s : State) :
    wrCcr c ((s.chan c).ccrRead &&& ~~~0x1#32) s = .next (s.setChan c (s.chan c).disarm) := by
  have hmask : ccrMask &&& ~~~0x1#32 &&& ~~~ccrMask = 0#32 := by decide
  have hlive : ~~~0x1#32 &&& ~~~ccrLiveMask = ~~~ccrLiveMask := by decide
  refine wrCcr_completes ?_ (fun _ => ?_) fun _ hen => ?_
  · rw [Chan.ccrRead, BitVec.and_assoc, BitVec.and_assoc, ← BitVec.and_assoc ccrMask, hmask,
      BitVec.and_zero]
  · rw [BitVec.and_assoc, hlive]
    rfl
  · simp at hen

theorem disarmStep_q1 (c : Role) (t : Temps) (s : State) :
    disarmStep c .q1 t s = .next (some .q2, { t with v := (s.chan c).ccrRead }, s) := rfl

theorem disarmStep_q2 {c : Role} {t : Temps} {s : State} (ht : t.v = (s.chan c).ccrRead) :
    disarmStep c .q2 t s = .next (none, t, s.setChan c (s.chan c).disarm) := by
  rw [disarmStep, ht, wrCcr_disarm, andThen_of_next]

/-- The second step of an undisturbed `DISARM(c)`, in any context. -/
theorem Runs.disarm_q2 {c : Role} {f : State → Out State}
    {put : Option DisarmStep → Temps → State → State} (h : Runs c (disarmStep c) f put)
    {t : Temps} {u : State} (ht : t.v = (u.chan c).ccrRead) :
    f (put (some .q2) t u) = .next (put none t (u.setChan c (u.chan c).disarm)) :=
  h.advance (by rw [disarmStep_q2 (by rw [h.chan, ht]), h.chan])

theorem runs_disarmRx : Runs .rx (disarmStep .rx) (exec .disarmRx) (mainPut .disarmRx .disarm) :=
  runs_main fun k t u => by
    rw [exec, execDisarmRx, mainAt_mainPos, disarmPos]

theorem runs_disarmTx : Runs .tx (disarmStep .tx) (exec .disarmTx) (mainPut .disarmTx .disarm) :=
  runs_main fun k t u => by
    rw [exec, execDisarmTx, mainAt_mainPos, disarmPos]

/-- Settles O26: the first step reads `CCR[c]`, the second writes it back without `EN`. -/
theorem disarmCompletes : Obligations.DisarmCompletes := by
  intro s hpos
  have hrx : exec .disarmRx s = .next (mainPut .disarmRx .disarm (some .q2)
      { s.mainTemps with v := s.rx.ccrRead } s) := by
    rw [exec, execDisarmRx, hpos]; rfl
  have htx : exec .disarmTx s = .next (mainPut .disarmTx .disarm (some .q2)
      { s.mainTemps with v := s.tx.ccrRead } s) := by
    rw [exec, execDisarmTx, hpos]; rfl
  refine ⟨⟨hrx, ?_⟩, ⟨htx, ?_⟩⟩
  · rw [repeatOut_succ_of_next hrx, repeatOut_succ_of_next (runs_disarmRx.disarm_q2 rfl),
      disarm_eq]
    rfl
  · rw [repeatOut_succ_of_next htx, repeatOut_succ_of_next (runs_disarmTx.disarm_q2 rfl),
      disarm_eq]
    rfl

/-! ## `ARM(c)` (R186) -/

/-- The step of `ARM(c)` after a step. -/
def ArmStep.after : ArmStep → Option ArmStep
  | .a1 => some .a2
  | .a2 => some .a3
  | .a3 => some .a4
  | .a4 => some .a5
  | .a5 => some .a6
  | .a6 => some .a7
  | .a7 => none

/-- The channel on which `ARM(c)` ends: Armed, bound to its role, the completion flag as it was. -/
def Chan.arm (p : Params) (c : Role) (x : Chan) : Chan where
  ccr := armCfg c ||| 0x1#32
  ndt := 1#16
  cpar := p.regAddr (dataReg c)
  cmar := p.cellAddr c
  tcif := x.tcif

/-- The channel as an undisturbed `ARM(c)` that started on `x` has it before a step, and at the
end. -/
def Chan.duringArm (p : Params) (c : Role) (x : Chan) : Option ArmStep → Chan
  | some .a1 | some .a2 => x
  | some .a3 => x.disarm
  | some .a4 => { x.disarm with cpar := p.regAddr (dataReg c) }
  | some .a5 => { x.disarm with cpar := p.regAddr (dataReg c), cmar := p.cellAddr c }
  | some .a6 => { x.disarm with cpar := p.regAddr (dataReg c), cmar := p.cellAddr c, ndt := 1#16 }
  | some .a7 => { x.arm p c with ccr := armCfg c }
  | none => x.arm p c

/-- The configuration is stored while the channel is disabled: it does not enable (R186). -/
theorem wrCcr_armCfg {c : Role} {s : State} (he : (s.chan c).en = false) :
    wrCcr c (armCfg c) s = .next (s.setChan c { s.chan c with ccr := armCfg c }) := by
  refine wrCcr_completes (by cases c <;> decide) (fun h => ?_) fun _ hw => ?_
  · rw [he] at h; cases h
  · cases c <;> exact absurd hw (by decide)

/-- The enabling write of a channel that is configured for its role with a count of 1 (R136,
R138). -/
theorem wrCcr_enable {c : Role} {s : State} (he : (s.chan c).en = false)
    (hpar : (s.chan c).cpar = s.params.regAddr (dataReg c))
    (hmar : (s.chan c).cmar = s.params.cellAddr c) (hn : (s.chan c).ndt = 1#16) :
    wrCcr c (armCfg c ||| 0x1#32) s =
      .next (s.setChan c { s.chan c with ccr := armCfg c ||| 0x1#32 }) := by
  refine wrCcr_completes (by cases c <;> decide) (fun h => ?_) fun _ _ => ⟨?_, by simp [hn]⟩
  · rw [he] at h; cases h
  · exact legalConfig_iff.2 ⟨by cases c <;> decide, hpar, hmar⟩

/-- From `a3` on the channel is disabled, so that its registers may be written (R145, R186). -/
theorem duringArm_en (p : Params) (c : Role) (x : Chan) {k : ArmStep} (h1 : k ≠ .a1)
    (h2 : k ≠ .a2) : (x.duringArm p c (some k)).en = false := by
  cases k with
  | a1 => exact absurd rfl h1
  | a2 => exact absurd rfl h2
  | a3 | a4 | a5 | a6 => exact disarm_en x
  | a7 => cases c <;> simp [Chan.duringArm, Chan.en, armCfg]

/-- One step of an undisturbed `ARM(c)`; after `a1` the temporary holds what `a1` read. -/
theorem armStep_undisturbed {c : Role} {k : ArmStep} {t : Temps} {s : State} {x : Chan}
    (hx : s.chan c = x.duringArm s.params c (some k)) (ht : k = .a1 ∨ t.v = x.ccrRead) :
    armStep c k t s =
      .next (k.after, { t with v := x.ccrRead },
        s.setChan c (x.duringArm s.params c k.after)) := by
  have hread (h1 : k ≠ .a1) : t.v = x.ccrRead := ht.resolve_left h1
  have hkeep (h1 : k ≠ .a1) : ({ t with v := x.ccrRead } : Temps) = t := by rw [← hread h1]
  have hoff (h1 : k ≠ .a1) (h2 : k ≠ .a2) : (s.chan c).en = false := by
    rw [hx, duringArm_en s.params c x h1 h2]
  cases k with
  | a1 =>
    obtain rfl : s.chan c = x := hx
    rw [ArmStep.after, Chan.duringArm, setChan_chan_self]
    rfl
  | a2 =>
    obtain rfl : s.chan c = x := hx
    rw [hkeep (by decide), armStep, hread (by decide), wrCcr_disarm]
    rfl
  | a3 =>
    rw [hkeep (by decide), armStep, wrCpar,
      whileDisabled_of_disabled (hoff (by decide) (by decide)), hx]
    rfl
  | a4 =>
    rw [hkeep (by decide), armStep, wrCmar,
      whileDisabled_of_disabled (hoff (by decide) (by decide)), hx]
    rfl
  | a5 =>
    rw [hkeep (by decide), armStep, wrCndtr_of_narrow (by decide),
      whileDisabled_of_disabled (hoff (by decide) (by decide)), hx]
    rfl
  | a6 =>
    rw [hkeep (by decide), armStep, wrCcr_armCfg (hoff (by decide) (by decide)), hx]
    rfl
  | a7 =>
    rw [hkeep (by decide), armStep, wrCcr_enable (hoff (by decide) (by decide)) (by rw [hx]; rfl)
      (by rw [hx]; rfl) (by rw [hx]; rfl), hx]
    rfl

section
variable {c : Role} {f : State → Out State} {put : Option ArmStep → Temps → State → State}

/-- One step of an undisturbed `ARM(c)` that started in `u`, in any context. -/
theorem Runs.arm_advance (h : Runs c (armStep c) f put) {k : ArmStep} {t : Temps} (u : State)
    (ht : k = .a1 ∨ t.v = (u.chan c).ccrRead) :
    f (put (some k) t (u.setChan c ((u.chan c).duringArm u.params c (some k)))) =
      .next (put k.after { t with v := (u.chan c).ccrRead }
        (u.setChan c ((u.chan c).duringArm u.params c k.after))) := by
  refine (h.advance (armStep_undisturbed ?_ ht)).trans ?_
  · rw [h.chan, h.params, setChan_chan_same, setChan_params]
  · rw [h.params, setChan_params, setChan_setChan]

/-- What an undisturbed `ARM(c)` does after `a1`: six steps, with `x[v]` as `a1` read it. -/
theorem Runs.arm_from_a2 (h : Runs c (armStep c) f put) {t : Temps} {u : State}
    (ht : t.v = (u.chan c).ccrRead) :
    repeatOut f 6 (put (some .a2) t u) =
      .next (put none t (u.setChan c ((u.chan c).arm u.params c))) := by
  have hstart : u = u.setChan c ((u.chan c).duringArm u.params c (some .a2)) :=
    (setChan_chan_self u c).symm
  have hkeep : ({ t with v := (u.chan c).ccrRead } : Temps) = t := by rw [← ht]
  have hstep (k : ArmStep) := h.arm_advance (k := k) u (.inr ht)
  rw [hkeep] at hstep
  conv_lhs => rw [hstart]
  rw [repeatOut_succ_of_next (hstep .a2), ArmStep.after, repeatOut_succ_of_next (hstep .a3),
    ArmStep.after, repeatOut_succ_of_next (hstep .a4), ArmStep.after,
    repeatOut_succ_of_next (hstep .a5), ArmStep.after, repeatOut_succ_of_next (hstep .a6),
    ArmStep.after, repeatOut_succ_of_next (hstep .a7)]
  rfl

/-- The whole of an undisturbed `ARM(c)`: seven steps, from any state of the channel (R186). -/
theorem Runs.arm (h : Runs c (armStep c) f put) (t : Temps) (u : State) :
    repeatOut f 7 (put (some .a1) t u) =
      .next (put none { t with v := (u.chan c).ccrRead }
        (u.setChan c ((u.chan c).arm u.params c))) := by
  have hfirst : f (put (some .a1) t u) =
      .next (put (some .a2) { t with v := (u.chan c).ccrRead } u) := by
    have hstep := h.arm_advance (k := .a1) (t := t) u (.inl rfl)
    rwa [ArmStep.after, Chan.duringArm, Chan.duringArm, setChan_chan_self] at hstep
  rw [repeatOut_succ_of_next hfirst, h.arm_from_a2 rfl]

end

theorem runs_armRx : Runs .rx (armStep .rx) (exec .armRx) (mainPut .armRx .arm) :=
  runs_main fun k t u => by
    rw [exec, execArmRx, mainAt_mainPos, armPos]

theorem runs_armTx (b : Byte) :
    Runs .tx (armStep .tx) (exec (.armTx b)) (mainPut (.armTx b) .arm) :=
  runs_main fun k t u => by
    rw [exec, execArmTx, mainAt_mainPos]

/-- Settles O24: `a1` at `MAIN`'s first step, then the rest of `ARM(RX)`. -/
theorem armReceiveCompletes : Obligations.ArmReceiveCompletes := by
  intro s hpos
  have hfirst : exec .armRx s = .next (mainPut .armRx .arm (some .a2)
      { s.mainTemps with v := s.rx.ccrRead } s) := by
    rw [exec, execArmRx, hpos]; rfl
  refine ⟨hfirst, ?_⟩
  rw [repeatOut_succ_of_next hfirst, runs_armRx.arm_from_a2 rfl]
  rfl

/-- Settles O25: `t0` stores the byte, then the whole of `ARM(TX)` on that memory. -/
theorem armTransmitCompletes : Obligations.ArmTransmitCompletes := by
  intro s b hpos hr
  have hfirst : exec (.armTx b) s = .next (mainPut (.armTx b) .arm (some .a1) s.mainTemps
      { s with mem := Memory.set s.mem s.params.txCellAddr.toNat b }) := by
    rw [exec, execArmTx, hpos, memWrite8_of_inRam b hr]; rfl
  refine ⟨_, hfirst, ?_, byteAt_set_same s _ b, fun x hx => byteAt_set_other s _ x b hx⟩
  rw [repeatOut_succ_of_next hfirst, (runs_armTx b).arm]
  rfl

end Sys2Proof.Machine

/-!
The serial line (spec/42_serial_line.md): one rule per access of a register, the arrival of a frame
case by case, the emission, and `CFGLINE`, which is followed once for whatever command runs its
steps (`repeatOut_cfg_from_c1`).
-/

namespace Sys2Proof.Machine

/-! ## Reading the control and status registers (R211, R213, R217) -/

/-- The bits of a register word, from those it has. -/
theorem getLsbD_of_low {m : Word} {p : Nat → Bool} (hlow : ∀ k < 32, m.getLsbD k = p k)
    (hhigh : ∀ k, 32 ≤ k → p k = false) (k : Nat) : m.getLsbD k = p k := by
  by_cases hk : k < 32
  · exact hlow k hk
  · rw [BitVec.getLsbD_of_ge _ _ (not_lt.1 hk), hhigh k (not_lt.1 hk)]

theorem getLsbD_cr1Mask (k : Nat) :
    cr1Mask.getLsbD k = decide (k = 0 ∨ k = 2 ∨ k = 3 ∨ k = 8) :=
  getLsbD_of_low (p := fun k => decide (k = 0 ∨ k = 2 ∨ k = 3 ∨ k = 8)) (by decide)
    (fun _ _ => decide_eq_false (by omega)) k

theorem getLsbD_cr3Mask (k : Nat) :
    cr3Mask.getLsbD k = decide (k = 0 ∨ k = 6 ∨ k = 7) :=
  getLsbD_of_low (p := fun k => decide (k = 0 ∨ k = 6 ∨ k = 7)) (by decide)
    (fun _ _ => decide_eq_false (by omega)) k

theorem getLsbD_rdSlCr1 (s : State) (k : Nat) :
    (rdSlCr1 s).getLsbD k = (decide (k = 0 ∨ k = 2 ∨ k = 3 ∨ k = 8) && s.sl.cr1.getLsbD k) := by
  rw [rdSlCr1, BitVec.getLsbD_and, getLsbD_cr1Mask, Bool.and_comm]

theorem getLsbD_rdSlCr3 (s : State) (k : Nat) :
    (rdSlCr3 s).getLsbD k = (decide (k = 0 ∨ k = 6 ∨ k = 7) && s.sl.cr3.getLsbD k) := by
  rw [rdSlCr3, BitVec.getLsbD_and, getLsbD_cr3Mask, Bool.and_comm]

/-- A control register that holds no reserved bit reads as it is stored. -/
theorem rdSlCr1_of_fields {s : State} {w : Word} (hs : s.sl.cr1 = w)
    (hw : w &&& ~~~cr1Mask = 0#32) : rdSlCr1 s = w := by
  rw [rdSlCr1, hs, and_eq_self_of_and_not hw]

theorem rdSlCr3_of_fields {s : State} {w : Word} (hs : s.sl.cr3 = w)
    (hw : w &&& ~~~cr3Mask = 0#32) : rdSlCr3 s = w := by
  rw [rdSlCr3, hs, and_eq_self_of_and_not hw]

theorem getLsbD_isr (l : Serial) (k : Nat) :
    l.isr.getLsbD k =
      (decide (k = 0) && l.pe || decide (k = 1) && l.fe || decide (k = 2) && l.nf ||
        decide (k = 3) && l.ore || decide (k = 5) && l.rxne || decide (k = 7) && l.txe) := by
  simp (disch := decide) only [Serial.isr, BitVec.getLsbD_or, getLsbD_bitAt]

/-- Settles O17: register by register, the read's mask bit by bit. -/
theorem readLineControl : Obligations.ReadLineControl := by
  intro s
  have hword := encode_readOf s.params
  exact ⟨⟨hword .slCr1, rdSlCr1 s, rfl, getLsbD_rdSlCr1 s⟩,
    ⟨hword .slCr3, rdSlCr3 s, rfl, getLsbD_rdSlCr3 s⟩, ⟨hword .slBrr, rfl⟩⟩

/-- Settles O19: each flag is one bit of the word. -/
theorem readLineStatus : Obligations.ReadLineStatus :=
  fun s => ⟨encode_readOf s.params .slIsr, s.sl.isr, rfl, getLsbD_isr s.sl⟩

/-! ## Writing the control registers and the divisor (R212, R214, R216) -/

section
variable {s : State} {w : Word}

theorem wrSlCr1_of_fields (hw : w &&& ~~~cr1Mask = 0#32) :
    wrSlCr1 w s = .next { s with sl := { s.sl with cr1 := w } } := if_neg (not_not.2 hw)

theorem wrSlCr1_of_reserved (hw : w &&& ~~~cr1Mask ≠ 0#32) :
    wrSlCr1 w s = .refused .reservedBits := if_pos hw

theorem wrSlCr3_of_fields (hw : w &&& ~~~cr3Mask = 0#32) :
    wrSlCr3 w s = .next { s with sl := { s.sl with cr3 := w } } := if_neg (not_not.2 hw)

theorem wrSlCr3_of_reserved (hw : w &&& ~~~cr3Mask ≠ 0#32) :
    wrSlCr3 w s = .refused .reservedBits := if_pos hw

theorem wrSlBrr_of_wide (hw : 65536 ≤ w.toNat) : wrSlBrr w s = .refused .reservedBits :=
  if_pos (mt (extract_high_eq_zero_iff w).1 (by omega))

theorem extract_low_setWidth (d : BitVec 16) : (d.setWidth 32).extractLsb' 0 16 = d := by
  apply BitVec.eq_of_toNat_eq
  simp only [BitVec.extractLsb'_toNat, BitVec.toNat_setWidth, Nat.shiftRight_zero]
  omega

theorem wrSlBrr_setWidth (d : BitVec 16) :
    wrSlBrr (d.setWidth 32) s = .next { s with sl := { s.sl with div := d } } := by
  have hhigh : (d.setWidth 32).extractLsb' 16 16 = 0#16 :=
    (extract_high_eq_zero_iff _).2 (by rw [BitVec.toNat_setWidth]; omega)
  rw [wrSlBrr, if_neg (not_not.2 hhigh), extract_low_setWidth]

end

/-- Settles O18: register by register, the reserved bits being those outside the mask. -/
theorem writeLineControl : Obligations.WriteLineControl := by
  intro s w
  have hcr1 : 0xFFFFFEF2#32 = ~~~cr1Mask := by decide
  have hcr3 : 0xFFFFFF3E#32 = ~~~cr3Mask := by decide
  rw [hcr1, hcr3]
  refine ⟨fun h => ?_, fun h => ?_, fun h => ?_, fun h => ?_, fun d => ?_, fun h => ?_⟩
  · rw [exec, execWrSlCr1, wrSlCr1_of_fields h]; rfl
  · rw [exec, execWrSlCr1, wrSlCr1_of_reserved h]; rfl
  · rw [exec, execWrSlCr3, wrSlCr3_of_fields h]; rfl
  · rw [exec, execWrSlCr3, wrSlCr3_of_reserved h]; rfl
  · rw [exec, execWrSlBrr, wrSlBrr_setWidth]; rfl
  · rw [exec, execWrSlBrr, wrSlBrr_of_wide h]; rfl

/-! ## Clearing the error flags (R220) -/

/-- A clear bit written 1 clears its flag, written 0 leaves it (R220). -/
theorem and_not_eq_ite (flag clear : Bool) :
    (flag && !clear) = if clear = true then false else flag := by
  cases clear <;> simp

theorem clearFlags_eq (w : Word) (l : Serial) :
    l.clearFlags w = { l with
      pe := if w.getLsbD 0 = true then false else l.pe
      fe := if w.getLsbD 1 = true then false else l.fe
      nf := if w.getLsbD 2 = true then false else l.nf
      ore := if w.getLsbD 3 = true then false else l.ore } := by
  simp only [Serial.clearFlags, and_not_eq_ite]

/-- Settles O20: the write is `clearFlags`, which takes each flag by its own bit. -/
theorem clearLineErrorsIndependently : Obligations.ClearLineErrorsIndependently := by
  intro s w
  refine ⟨encode_writeOf s.params .slIcr w, ?_⟩
  rw [← clearFlags_eq]
  rfl

/-! ## The data registers (R79, R222, R224, R225) -/

theorem highZero_of_wide {w : Word} (hw : 256 ≤ w.toNat) : highZero w = false := by
  refine Bool.eq_false_iff.2 fun hz => ?_
  have hb : w.toNat = (lowByte w).toNat := by
    conv_lhs => rw [← byteData_lowByte hz]
    rw [byteData, BitVec.toNat_setWidth]
    omega
  omega

theorem wrSlTdr32_byteData (b : Byte) (s : State) :
    wrSlTdr32 (byteData b) s = .next (putTdr b s) := by
  rw [wrSlTdr32, highZero_byteData, if_neg (by decide), lowByte_byteData]

theorem wrSlTdr32_of_wide {w : Word} (s : State) (hw : 256 ≤ w.toNat) :
    wrSlTdr32 w s = .refused .reservedBits := if_pos (highZero_of_wide hw)

/-- Settles O21: the reads and the 8-bit write are `takeRdr` and `putTdr`; the 32-bit write is
`putTdr` of a byte, and refused otherwise. -/
theorem dataRegisters : Obligations.DataRegisters := by
  intro s b w
  refine ⟨⟨rfl, rfl⟩, ⟨rfl, rfl⟩, ?_, rfl, fun hw => ?_⟩
  · exact congrArg endWrite (wrSlTdr32_byteData b s)
  · exact congrArg endWrite (wrSlTdr32_of_wide s hw)

/-! ## An arriving frame (R228) -/

section
variable {l : Serial} {f : Frame} {ob : Bool}

theorem receive_of_off (h : l.ue = false ∨ l.re = false) : l.receive ob f = l :=
  if_pos (by rcases h with h | h <;> simp [h])

theorem receive_of_stalled (h : ob = true ∧ l.ore = true) : l.receive ob f = l := by
  simp [Serial.receive, h]

/-- A receiver that is on and not stalled takes the frame. -/
theorem receive_of_listening (hon : ¬ (l.ue = false ∨ l.re = false))
    (hst : ¬ (ob = true ∧ l.ore = true)) :
    l.receive ob f =
      (let l' : Serial := { l with fe := l.fe || f.fe, nf := l.nf || f.nf, pe := l.pe || f.pe }
      if f.fe = true ∨ f.nf = true ∨ f.pe = true then l'
      else if l.rxne = true then { l' with ore := true }
      else { l' with rdr := f.data, rxne := true }) := by
  have hon' : (l.ue && l.re) = true := by simpa using hon
  have hst' : ¬ (ob && l.ore) = true := by simpa using hst
  rw [Serial.receive, if_neg (not_not.2 hon'), if_neg hst']
  simp only [Bool.or_eq_true, or_assoc]

/-- A frame without a mark sets no error flag of its own. -/
theorem unmarked_flags (h : ¬ (f.fe = true ∨ f.nf = true ∨ f.pe = true)) (l : Serial) :
    { l with fe := l.fe || f.fe, nf := l.nf || f.nf, pe := l.pe || f.pe } = l := by
  obtain ⟨hfe, hnf, hpe⟩ : f.fe = false ∧ f.nf = false ∧ f.pe = false := by simpa using h
  simp only [hfe, hnf, hpe, Bool.or_false]

end

section
variable {s : State} {f : Frame} {rest : List Frame}

theorem slrxStep_of_cons (hwire : s.rxWire = f :: rest) :
    slrxStep s = { s with rxWire := rest, sl := s.sl.receive s.params.oreBlocksRx f } := by
  rw [slrxStep, hwire]

/-- The turn of `SLRX` takes the head of the wire. -/
theorem step_of_arrival (hf : s.faultMark = none)
    (hr : s.refusedMark = none) (hturn : s.nextTurn = .slrx) (hwire : s.rxWire = f :: rest) :
    step s = .next { s.afterTurn with
      rxWire := rest, sl := s.sl.receive s.params.oreBlocksRx f } := by
  rw [step_of_unmarked hf hr, hturn, agentStep,
    slrxStep_of_cons ((afterTurn_rxWire s).trans hwire)]
  simp only [record, afterTurn_sl, afterTurn_params]

end

/-- Settles O32: the turn takes the frame from the wire, and the five cases are those of
`Serial.receive`. -/
theorem frameArrival : Obligations.FrameArrival := by
  intro s f rest hf hr hturn hwire
  have hsl : { s.afterTurn with rxWire := rest, sl := s.sl } =
      { s.afterTurn with rxWire := rest } := by simp only [afterTurn_sl]
  rw [step_of_arrival hf hr hturn hwire]
  split_ifs with hoff hstall hmark hfull
  · rw [receive_of_off hoff, hsl]
  · rw [receive_of_stalled hstall, hsl]
  · rw [receive_of_listening hoff hstall]
    simp only [if_pos hmark]
  · rw [receive_of_listening hoff hstall, unmarked_flags hmark]
    simp only [if_neg hmark, if_pos hfull]
  · rw [receive_of_listening hoff hstall, unmarked_flags hmark]
    simp only [if_neg hmark, if_neg hfull]

/-! ## The emission (R230) -/

theorem emitStep_of_enabled {s : State} (hue : s.sl.ue = true) (hte : s.sl.te = true)
    (htxe : s.sl.txe = false) :
    emitStep s =
      { s with txLine := s.txLine ++ [s.sl.tdr], sl := { s.sl with txe := true } } :=
  if_pos ⟨hue, hte, htxe⟩

/-- Settles O33: the turn is `EMIT`, enabled by the line, which taking the turn does not touch. -/
theorem emissionStep : Obligations.EmissionStep := by
  intro s hf hr hturn hue hte htxe
  have hsl := afterTurn_sl s
  rw [step_of_unmarked hf hr, hturn, agentStep,
    emitStep_of_enabled (by rwa [hsl]) (by rwa [hsl]) (by rwa [hsl]), hsl, afterTurn_txLine]
  rfl

/-! ## One micro-step of `CFGLINE` (R236) -/

/-- The rates `CFGLINE` and `INIT` accept: not 0, with a divisor of 1 to `0xFFFF` (R237). -/
def RateFits (p : Params) (baud : Word) : Prop :=
  baud ≠ 0#32 ∧ 1 ≤ baudDivisor p baud ∧ baudDivisor p baud ≤ 0xFFFF

/-- The step of `CFGLINE` after a step. -/
def CfgStep.after : CfgStep → Option CfgStep
  | .c0 => some .c1
  | .c1 => some .c2
  | .c2 => some .c3
  | .c3 => some .c4
  | .c4 => some .c5
  | .c5 => some .c6
  | .c6 => some .c7
  | .c7 => some .c8
  | .c8 => some .c9
  | .c9 => none

/-- The line as an undisturbed `CFGLINE` with divisor `d` that started on `l` has it before a step,
and at the end. -/
def Serial.duringCfg (d : BitVec 16) (l : Serial) : Option CfgStep → Serial
  | some .c0 | some .c1 => l
  | some .c2 => { l with cr1 := 0x0#32 }
  | some .c3 => { l with cr1 := 0x0#32, div := d }
  | some .c4 => { l with cr1 := 0xD#32, div := d }
  | some .c5 | some .c6 => { l with cr1 := 0xD#32, div := d, cr3 := 0xC0#32 }
  | some .c7 | some .c8 => { l with cr1 := 0xD#32, div := d, cr3 := 0xC1#32 }
  | some .c9 | none => { l with cr1 := 0x10D#32, div := d, cr3 := 0xC1#32 }

/-- The state before a step, and at the end: the line as configured so far, and the error interrupt
enabled by the last step. -/
def State.duringCfg (baud : Word) (s : State) (k : Option CfgStep) : State :=
  { s with
    sl := s.sl.duringCfg (BitVec.ofNat 16 (baudDivisor s.params baud)) k
    ienErr := k.isNone || s.ienErr }

/-- The temporaries before a step, and at the end: `c5` and `c7` read a control register into
`x[v]`. -/
def Temps.duringCfg (t : Temps) : Option CfgStep → Temps
  | some .c6 | some .c7 => { t with v := 0xC0#32 }
  | some .c8 | some .c9 | none => { t with v := 0xD#32 }
  | some _ => t

section
variable {baud : Word} {s : State}

theorem cfgStep_c0_of_zero (t : Temps) : cfgStep 0#32 .c0 t s = .refused .zeroBaud := rfl

theorem cfgStep_c0_of_range (t : Temps) (hb : baud ≠ 0#32)
    (hd : baudDivisor s.params baud = 0 ∨ 0xFFFF < baudDivisor s.params baud) :
    cfgStep baud .c0 t s = .refused .divisorOutOfRange := by
  rw [cfgStep, if_neg hb, if_pos hd]

theorem cfgStep_c0_of_rateFits (t : Temps) (h : RateFits s.params baud) :
    cfgStep baud .c0 t s = .next (some .c1, t, s) := by
  obtain ⟨hb, hlo, hhi⟩ := h
  rw [cfgStep, if_neg hb, if_neg (by omega)]

theorem wrSlBrr_ofNat {d : Nat} (hd : d ≤ 0xFFFF) :
    wrSlBrr (BitVec.ofNat 32 d) s =
      .next { s with sl := { s.sl with div := BitVec.ofNat 16 d } } := by
  have hwide : BitVec.ofNat 32 d = (BitVec.ofNat 16 d).setWidth 32 := by
    apply BitVec.eq_of_toNat_eq
    simp only [BitVec.toNat_ofNat, BitVec.toNat_setWidth]
    omega
  rw [hwide, wrSlBrr_setWidth]

/-- One step of an undisturbed `CFGLINE` that started in `s`. -/
theorem cfgStep_undisturbed (h : RateFits s.params baud) (k : CfgStep) (t : Temps) :
    cfgStep baud k (t.duringCfg (some k)) (s.duringCfg baud (some k)) =
      .next (k.after, t.duringCfg k.after, s.duringCfg baud k.after) := by
  cases k with
  | c0 => exact cfgStep_c0_of_rateFits t h
  | c1 | c3 => rw [cfgStep, wrSlCr1_of_fields (by decide)]; rfl
  | c2 =>
    obtain ⟨-, -, hhi⟩ : RateFits (s.duringCfg baud (some .c2)).params baud := h
    rw [cfgStep, wrSlBrr_ofNat hhi]; rfl
  | c4 => rw [cfgStep, wrSlCr3_of_fields (by decide)]; rfl
  | c5 => rw [cfgStep, rdSlCr3_of_fields (w := 0xC0#32) rfl (by decide)]; rfl
  | c6 =>
    have hset : (t.duringCfg (some .c6)).v ||| 0x1#32 = 0xC1#32 :=
      (by decide : 0xC0#32 ||| 0x1#32 = 0xC1#32)
    rw [cfgStep, hset, wrSlCr3_of_fields (by decide)]; rfl
  | c7 => rw [cfgStep, rdSlCr1_of_fields (w := 0xD#32) rfl (by decide)]; rfl
  | c8 =>
    have hset : (t.duringCfg (some .c8)).v ||| 0x100#32 = 0x10D#32 :=
      (by decide : 0xD#32 ||| 0x100#32 = 0x10D#32)
    rw [cfgStep, hset, wrSlCr1_of_fields (by decide)]; rfl
  | c9 => rfl

end

/-! ## `CFGLINE` inside the command that runs it (R235, R286) -/

/-- Where a micro-step of `CFGLINE` inside command `i` leaves `MAIN`: at the step that follows, or
as `done` has it after the last. -/
def cfgNext (i : Instr) (done : Temps → State → State) :
    Option CfgStep × Temps × State → Out State
  | (some k, t, s) => .next (s.mainAt i (.cfg k) t)
  | (none, t, s) => .next (done t s)

theorem cfgPos_first : cfgPos .first = .c0 := rfl

theorem cfgPos_cfg (k : CfgStep) : cfgPos (.cfg k) = k := rfl

theorem exec_cfgLine (baud : Word) (s : State) :
    exec (.cfgLine baud) s =
      andThen (cfgStep baud (cfgPos s.mainPos) s.mainTemps s)
        (cfgNext (.cfgLine baud) fun _ u => u.endMain .nothing) := by
  refine congrArg (andThen _) (funext fun r => ?_)
  obtain ⟨k, t, u⟩ := r
  cases k <;> rfl

/-- Before `i1` a micro-step of `INIT` is one of `CFGLINE` (R286). -/
theorem exec_init_of_cfg {baud : Word} {s : State}
    (hpos : s.mainPos = .first ∨ ∃ k, s.mainPos = .cfg k) :
    exec (.init baud) s =
      andThen (cfgStep baud (cfgPos s.mainPos) s.mainTemps s)
        (cfgNext (.init baud) fun t u => u.mainAt (.init baud) .i1 t) := by
  rcases hpos with h | ⟨_, h⟩
  all_goals
    rw [exec, execInit, h]
    refine congrArg (andThen _) (funext fun r => ?_)
    obtain ⟨k, t, u⟩ := r
    cases k <;> rfl

theorem mainAt_duringCfg_mainAt (s : State) (baud : Word) (k : Option CfgStep) (i : Instr)
    (pos pos' : MainPos) (t t' : Temps) :
    ((s.mainAt i pos t).duringCfg baud k).mainAt i pos' t' =
      (s.mainAt i pos' t').duringCfg baud k := by
  unfold State.mainAt
  cases s.main <;> rfl

/-- `MAIN` inside an undisturbed `CFGLINE` that started in `s`, before step `k`. -/
def State.cfgAt (i : Instr) (baud : Word) (t : Temps) (s : State) (k : CfgStep) : State :=
  (s.mainAt i (.cfg k) (t.duringCfg (some k))).duringCfg baud (some k)

section
variable {baud : Word} {i : Instr} {done : Temps → State → State} {f : State → Out State}

/-- A command that runs `CFGLINE` goes through its steps. -/
theorem cfgAt_step
    (hf : ∀ k u, u.mainPos = .cfg k →
      f u = andThen (cfgStep baud k u.mainTemps u) (cfgNext i done))
    {s : State} (h : RateFits s.params baud) (t : Temps) (k : CfgStep) :
    f (s.cfgAt i baud t k) =
      cfgNext i done (k.after, t.duringCfg k.after,
        (s.mainAt i (.cfg k) (t.duringCfg (some k))).duringCfg baud k.after) := by
  have hpos : (s.cfgAt i baud t k).mainPos = .cfg k := mainAt_mainPos s i (.cfg k) _
  have htemps : (s.cfgAt i baud t k).mainTemps = t.duringCfg (some k) := mainAt_mainTemps s i _ _
  rw [hf k _ hpos, htemps, State.cfgAt,
    cfgStep_undisturbed ((mainAt_params s i (.cfg k) _).symm ▸ h), andThen_of_next]

theorem cfgAt_advance
    (hf : ∀ k u, u.mainPos = .cfg k →
      f u = andThen (cfgStep baud k u.mainTemps u) (cfgNext i done))
    {s : State} (h : RateFits s.params baud) (t : Temps) {k k' : CfgStep}
    (hk : k.after = some k') :
    f (s.cfgAt i baud t k) = .next (s.cfgAt i baud t k') := by
  rw [cfgAt_step hf h, hk, cfgNext, mainAt_duringCfg_mainAt, State.cfgAt]

/-- What an undisturbed `CFGLINE` does after `c0`: nine steps, in whatever command runs it. -/
theorem repeatOut_cfg_from_c1
    (hf : ∀ k u, u.mainPos = .cfg k →
      f u = andThen (cfgStep baud k u.mainTemps u) (cfgNext i done))
    {s : State} (h : RateFits s.params baud) (t : Temps) :
    repeatOut f 9 (s.mainAt i (.cfg .c1) t) =
      .next (done { t with v := 0xD#32 }
        ((s.mainAt i (.cfg .c9) { t with v := 0xD#32 }).duringCfg baud none)) := by
  have hstep {k k' : CfgStep} (n : Nat) (hk : k.after = some k') :
      repeatOut f (n + 1) (s.cfgAt i baud t k) = repeatOut f n (s.cfgAt i baud t k') :=
    repeatOut_succ_of_next (cfgAt_advance hf h t hk) n
  have hlast := repeatOut_succ_of_next (cfgAt_step hf h t .c9) 0
  calc repeatOut f 9 (s.cfgAt i baud t .c1)
    _ = repeatOut f 8 (s.cfgAt i baud t .c2) := hstep 8 rfl
    _ = repeatOut f 7 (s.cfgAt i baud t .c3) := hstep 7 rfl
    _ = repeatOut f 6 (s.cfgAt i baud t .c4) := hstep 6 rfl
    _ = repeatOut f 5 (s.cfgAt i baud t .c5) := hstep 5 rfl
    _ = repeatOut f 4 (s.cfgAt i baud t .c6) := hstep 4 rfl
    _ = repeatOut f 3 (s.cfgAt i baud t .c7) := hstep 3 rfl
    _ = repeatOut f 2 (s.cfgAt i baud t .c8) := hstep 2 rfl
    _ = repeatOut f 1 (s.cfgAt i baud t .c9) := hstep 1 rfl
    _ = _ := hlast

end

theorem endMain_duringCfg_mainAt (s : State) (baud : Word) (k : Option CfgStep) (i : Instr)
    (pos : MainPos) (t : Temps) (r : Result) :
    ((s.mainAt i pos t).duringCfg baud k).endMain r = (s.duringCfg baud k).endMain r := by
  unfold State.mainAt
  cases s.main <;> rfl

/-- Settles O35: `c0` at `MAIN`'s first step, then `c1` to `c9`. -/
theorem configureLineCompletes : Obligations.ConfigureLineCompletes := by
  intro s baud hpos hb hlo hhi
  have hfits : RateFits s.params baud := ⟨hb, hlo, hhi⟩
  have hfirst : exec (.cfgLine baud) s =
      .next (s.mainAt (.cfgLine baud) (.cfg .c1) s.mainTemps) := by
    rw [exec_cfgLine, hpos, cfgPos_first, cfgStep_c0_of_rateFits _ hfits, andThen_of_next, cfgNext]
  have hrest (k : CfgStep) (u : State) (hk : u.mainPos = .cfg k) :
      exec (.cfgLine baud) u = andThen (cfgStep baud k u.mainTemps u)
        (cfgNext (.cfgLine baud) fun _ v => v.endMain .nothing) := by
    rw [exec_cfgLine, hk, cfgPos_cfg]
  refine ⟨hfirst, ?_⟩
  rw [repeatOut_succ_of_next hfirst, repeatOut_cfg_from_c1 hrest hfits, endMain_duringCfg_mainAt]
  rfl

/-! ## Commands refused (R237, R284) -/

/-- What `c0` refuses, both commands that start with it refuse. -/
theorem cfgLine_init_refused {baud : Word} {s : State} {r : Refusal} (hpos : s.mainPos = .first)
    (h : cfgStep baud .c0 s.mainTemps s = .refused r) :
    exec (.cfgLine baud) s = .refused r ∧ exec (.init baud) s = .refused r := by
  rw [exec_cfgLine, exec_init_of_cfg (.inl hpos), hpos, cfgPos_first, h]
  exact ⟨rfl, rfl⟩

theorem cooperativeOnly_of_autonomous {s : State} (h : s.params.echoPolicy = .autonomous)
    (o : Out State) : cooperativeOnly s o = .refused .commandNotInVariant := if_pos h

/-- Settles O36: the rates by what `c0` refuses, the mainline surface by its variant. -/
theorem commandsRefused : Obligations.CommandsRefused := by
  intro s
  refine ⟨fun baud hpos => ⟨?_, fun hb hd => ?_⟩, fun b hv => ?_⟩
  · rintro rfl
    exact cfgLine_init_refused hpos (cfgStep_c0_of_zero _)
  · exact cfgLine_init_refused hpos (cfgStep_c0_of_range _ hb hd)
  · have href := cooperativeOnly_of_autonomous hv
    exact ⟨href _, href _, href _, href _⟩

end Sys2Proof.Machine

/-!
The echo coordinator (spec/43_echo_coordinator.md).  The sequences inside a handler or a command of
`MAIN` are followed by the rules of the transfer engine (`Runs`) and of the line
(`repeatOut_cfg_from_c1`); here are the steps between them, one rule per position, and the runs of a
whole handler or command put together from the two.
-/

namespace Sys2Proof.Machine

/-! ## Runs in parts -/

/-- A run that starts with a run of known end goes on from there. -/
theorem repeatOut_add_of_next {f : State → Out State} {m : Nat} {s t : State}
    (h : repeatOut f m s = .next t) (n : Nat) : repeatOut f (m + n) s = repeatOut f n t := by
  induction m generalizing s with
  | zero =>
    obtain rfl : s = t := Host.Outcome.next.inj h
    rw [Nat.zero_add]
  | succ m ih =>
    obtain ⟨u, hu, hrest⟩ := andThen_next (h : andThen (f s) (repeatOut f m) = .next t)
    rw [Nat.add_right_comm, repeatOut_succ_of_next hu, ih hrest]

/-! ## The HOST gives a word (R285) -/

section
variable {s : State}

theorem hostStep_of_word {w : OpWord} {rest : List OpWord} (hm : s.main = .idle)
    (hw : s.hostWords = w :: rest) :
    hostStep s = { s with main := .running w .first .fresh, hostWords := rest } := by
  rw [hostStep, hm, hw]

theorem hostStep_of_running {w : OpWord} {pos : MainPos} {t : Temps}
    (hm : s.main = .running w pos t) : hostStep s = s := by
  rw [hostStep, hm]

theorem hostStep_of_no_word (hw : s.hostWords = []) : hostStep s = s := by
  rw [hostStep, hw]
  cases s.main <;> rfl

theorem step_of_host (hf : s.faultMark = none) (hr : s.refusedMark = none)
    (hturn : s.nextTurn = .host) : step s = .next (hostStep s.afterTurn) := by
  rw [step_of_unmarked hf hr, hturn]
  rfl

end

/-- Settles O43, case by case of the step of the HOST. -/
theorem hostGivesWord : Obligations.HostGivesWord := by
  intro s hf hr hturn
  rw [step_of_host hf hr hturn]
  refine ⟨fun w rest hm hw => ?_, fun w pos t hm => ?_, fun _ hw => ?_⟩
  · rw [hostStep_of_word ((afterTurn_main s).trans hm) ((afterTurn_hostWords s).trans hw)]
  · rw [hostStep_of_running ((afterTurn_main s).trans hm)]
  · rw [hostStep_of_no_word ((afterTurn_hostWords s).trans hw)]

/-! ## The step of a running `MAIN` (R285, R332) -/

section
variable {s : State}

/-- With no handler active and no interrupt due, the `CPU` steps `MAIN`, whatever the slack and the
pick (R332). -/
theorem cpuPick_of_quiet (hdma : s.hDma = .inactive) (herr : s.hErr = .inactive)
    (hdueDma : s.dueDma = false) (hdueErr : s.dueErr = false) (hm : s.main.isRunning = true)
    (pick : CpuPick) : s.cpuPick pick = some .runMain := by
  have hurgent : s.urgentPick = some .runMain := by
    simp [State.urgentPick, hdma, herr, hdueDma, hdueErr, hm]
  rw [State.cpuPick]
  split_ifs with hlax
  · obtain ⟨-, henabled⟩ := hlax
    cases pick with
    | runMain => rfl
    | enterDma | runDma | enterErr | runErr =>
      simp [State.laxEnabled, hdma, herr, hdueDma, hdueErr] at henabled
  · exact hurgent

theorem mainRun_of_decode {w : OpWord} {pos : MainPos} {t : Temps} {i : Instr}
    (hm : s.main = .running w pos t) (hd : decode s.params w = .ok i) : mainRun s = exec i s := by
  rw [mainRun, hm]
  simp only [hd]

end

/-- An enable that is kept only where its line is down leaves nothing due (log entry 9). -/
theorem placeWord_not_due (w : OpWord) (s : State) :
    (placeWord w s).dueDma = false ∧ (placeWord w s).dueErr = false := by
  have hdma : (placeWord w s).dueDma = (s.irqDma && (s.ienDma && !s.irqDma) && true) := rfl
  have herr : (placeWord w s).dueErr = (s.sl.irqErr && (s.ienErr && !s.sl.irqErr) && true) := rfl
  rw [hdma, herr]
  grind

/-- Settles O6: a `CPU` turn with nothing before `MAIN`. -/
theorem placedWordRunsNext : Obligations.PlacedWordRunsNext := by
  intro s nbits w i hd
  obtain ⟨hdueDma, hdueErr⟩ := placeWord_not_due (BitVec.ofNat 72 w) s
  have hpick : (s.withFetchWord nbits w).afterTurn.cpuPick .runMain = some .runMain :=
    cpuPick_of_quiet (s := (s.withFetchWord nbits w).afterTurn) rfl rfl hdueDma hdueErr rfl _
  have hrun : agentStep (.cpu .runMain) (s.withFetchWord nbits w).afterTurn =
      exec i (s.withFetchWord nbits w).afterTurn := by
    rw [agentStep, cpuStep, hpick]
    exact mainRun_of_decode rfl hd
  have hstep : step (s.withFetchWord nbits w) = .next (record (s.withFetchWord nbits w).afterTurn
      (agentStep (.cpu .runMain) (s.withFetchWord nbits w).afterTurn)) := step_of_unmarked rfl rfl
  rw [hstep, hrun]
  rfl

/-! ## `H_ERR` (R271) -/

/-- The four error flags, in the order in which `H_ERR` tests them. -/
inductive LineError where
  | ore
  | fe
  | nf
  | pe

namespace LineError

/-- The step that tests the flag. -/
def test : LineError → ErrPos
  | ore => .e1
  | fe => .e3
  | nf => .e5
  | pe => .e7

/-- The step that clears the flag. -/
def write : LineError → ErrPos
  | ore => .e2
  | fe => .e4
  | nf => .e6
  | pe => .e8

/-- The step after the flag has been dealt with. -/
def done : LineError → ErrPos
  | ore => .e3
  | fe => .e5
  | nf => .e7
  | pe => .ret

/-- The bit of `SL_ISR` that shows the flag, and of `SL_ICR` that clears it. -/
def bit : LineError → Nat
  | ore => 3
  | fe => 1
  | nf => 2
  | pe => 0

/-- The flag itself. -/
def flag (l : Serial) : LineError → Bool
  | ore => l.ore
  | fe => l.fe
  | nf => l.nf
  | pe => l.pe

/-- The line with the flag cleared. -/
def clear (l : Serial) : LineError → Serial
  | ore => { l with ore := false }
  | fe => { l with fe := false }
  | nf => { l with nf := false }
  | pe => { l with pe := false }

theorem clear_of_flag {l : Serial} {e : LineError} (h : e.flag l = false) : e.clear l = l := by
  cases e <;> (simp only [flag] at h; simp only [clear, ← h])

theorem getLsbD_isr_bit (e : LineError) (l : Serial) : l.isr.getLsbD e.bit = e.flag l := by
  rw [getLsbD_isr]
  cases e <;> simp [bit, flag]

variable (e : LineError) (s : State) (t : Temps)

/-- A test reads the flag as it is now (R271). -/
theorem errRun_test :
    errRun (s.errAt e.test t) =
      .next (s.errAt (if e.flag s.sl then e.write else e.done) { t with s := s.sl.isr }) := by
  have hrun : errRun (s.errAt e.test t) =
      .next (errTest e.bit e.write e.done t (s.errAt e.test t)) := by cases e <;> rfl
  rw [hrun, errTest, errAt_sl, getLsbD_isr_bit]
  rfl

/-- The write after a test clears its own flag (R220, R271). -/
theorem errRun_write :
    errRun (s.errAt e.write t) = .next ({ s with sl := e.clear s.sl }.errAt e.done t) := by
  cases e <;>
    simp [errRun, write, done, clear, errStep, wrSlIcr, clearFlags_eq, State.errAt]

/-- A test, with its write where the flag is set: the flag is 0 afterwards. -/
theorem errRun_flag : ∃ n ≤ 2, ∃ t', repeatOut errRun n (s.errAt e.test t) =
    .next ({ s with sl := e.clear s.sl }.errAt e.done t') := by
  have htest := errRun_test e s t
  cases hflag : e.flag s.sl with
  | false =>
    rw [hflag, if_neg (by decide)] at htest
    rw [clear_of_flag hflag]
    exact ⟨1, by decide, _, repeatOut_succ_of_next htest 0⟩
  | true =>
    rw [hflag, if_pos rfl] at htest
    exact ⟨2, le_rfl, _, (repeatOut_succ_of_next htest 1).trans
      (repeatOut_succ_of_next (errRun_write e s _) 0)⟩

end LineError

/-- The whole of an undisturbed `H_ERR`: the four flags one after another, and `ret`. -/
theorem errRun_all (s : State) (t : Temps) :
    ∃ n ≤ 9, repeatOut errRun n (s.errAt .e1 t) = .next { s with
      sl := { s.sl with pe := false, fe := false, nf := false, ore := false }
      hErr := .inactive } := by
  obtain ⟨n1, h1, t1, hore⟩ := LineError.ore.errRun_flag s t
  obtain ⟨n2, h2, t2, hfe⟩ := LineError.fe.errRun_flag _ t1
  obtain ⟨n3, h3, t3, hnf⟩ := LineError.nf.errRun_flag _ t2
  obtain ⟨n4, h4, t4, hpe⟩ := LineError.pe.errRun_flag _ t3
  refine ⟨n1 + (n2 + (n3 + (n4 + 1))), by omega, ?_⟩
  calc
    _ = repeatOut errRun (n2 + (n3 + (n4 + 1))) _ := repeatOut_add_of_next hore _
    _ = repeatOut errRun (n3 + (n4 + 1)) _ := repeatOut_add_of_next hfe _
    _ = repeatOut errRun (n4 + 1) _ := repeatOut_add_of_next hnf _
    _ = repeatOut errRun 1 _ := repeatOut_add_of_next hpe _
    _ = _ := rfl

theorem errAt_self {s : State} {pos : ErrPos} {t : Temps} (h : s.hErr = .active pos t) :
    s.errAt pos t = s := by
  rw [State.errAt, ← h]

/-- Settles O47: each clause is a test or a write of one flag, or the whole run. -/
theorem errorHandlerClears : Obligations.ErrorHandlerClears := by
  intro s
  have htest (e : LineError) (t : Temps) (h : s.hErr = .active e.test t) :
      ∃ t', errRun s = .next (s.errAt (if e.flag s.sl then e.write else e.done) t') :=
    ⟨_, by rw [← e.errRun_test s t, errAt_self h]⟩
  have hwrite (e : LineError) (t : Temps) (h : s.hErr = .active e.write t) :
      ∃ t', errRun s = .next ({ s with sl := e.clear s.sl }.errAt e.done t') :=
    ⟨_, by rw [← e.errRun_write s t, errAt_self h]⟩
  refine ⟨fun t h => ?_, htest .ore, hwrite .ore, htest .fe, hwrite .fe, htest .nf, hwrite .nf,
    htest .pe, hwrite .pe⟩
  obtain ⟨n, hn, hrun⟩ := errRun_all s t
  exact ⟨n, hn, by rw [← hrun, errAt_self h]⟩

/-! ## The steps of `H_DMA` (R262 to R267) -/

/-- The two cells lie in RAM (R5). -/
theorem Params.inRam_cellAddr {p : Params} (hp : p.Wf) (c : Role) : p.inRam (p.cellAddr c) := by
  obtain ⟨-, -, -, -, -, -, -, -, hrx, htx, -⟩ := hp
  cases c
  · exact hrx
  · exact htx

/-- `DMA_ISR` shows the completion flag of a role at its own bit, which is no bit of the other
role (R25). -/
theorem getLsbD_dmaIsr_tcBit {s : State} (hp : s.params.Wf) (c : Role) :
    s.dmaIsr.getLsbD (tcBit s.params c) = (s.chan c).tcif := by
  have hrx := Params.channel_bounds hp .rx
  have htx := Params.channel_bounds hp .tx
  have hne : s.params.channel .rx ≠ s.params.channel .tx := by
    obtain ⟨-, -, hne, -⟩ := hp
    exact hne
  have hbits : tcBit s.params .rx ≠ tcBit s.params .tx ∧ tcBit s.params .rx ≠ gifBit s.params .tx ∧
      tcBit s.params .tx ≠ gifBit s.params .rx := by
    unfold tcBit gifBit
    omega
  obtain ⟨htc, hrxg, htxg⟩ := hbits
  rw [State.dmaIsr, BitVec.getLsbD_or, getLsbD_chanFlags hp, getLsbD_chanFlags hp]
  cases c with
  | rx => simp [htc, hrxg]
  | tx => simp [htc.symm, htxg]

theorem dmaAt_self {s : State} {pos : DmaPos} {t : Temps} (h : s.hDma = .active pos t) :
    s.dmaAt pos t = s := by
  rw [State.dmaAt, ← h]

/-- `H_DMA` inside a sequence, which goes on at `done`. -/
def dmaPut {κ : Type} (wrap : κ → DmaPos) (done : DmaPos) : Option κ → Temps → State → State
  | some k, t, u => u.dmaAt (wrap k) t
  | none, t, u => u.dmaAt done t

/-- The positions of `H_DMA` whose step is `dmaSeq` of a sequence run that sequence. -/
theorem runs_dma {κ : Type} {c : Role} {run : κ → Temps → State → Micro κ} {wrap : κ → DmaPos}
    {done : DmaPos} (h : ∀ k t s, dmaStep (wrap k) t s = dmaSeq wrap done (run k t s)) :
    Runs c run dmaRun (dmaPut wrap done) where
  micro k t u := by
    refine (h k t (u.dmaAt (wrap k) t)).trans (congrArg (andThen _) (funext fun r => ?_))
    obtain ⟨k', t', u'⟩ := r
    cases k' <;> rfl
  params _ _ _ := rfl
  chan k t u := by cases c <;> rfl
  setChan k t k' t' u x := by cases c <;> cases k' <;> rfl

/-- The whole of an undisturbed `DISARM(c)`, in any context (R189). -/
theorem Runs.disarm {c : Role} {f : State → Out State}
    {put : Option DisarmStep → Temps → State → State} (h : Runs c (disarmStep c) f put)
    (t : Temps) (u : State) :
    repeatOut f 2 (put (some .q1) t u) =
      .next (put none { t with v := (u.chan c).ccrRead } (u.setChan c (u.chan c).disarm)) := by
  have hfirst : f (put (some .q1) t u) =
      .next (put (some .q2) { t with v := (u.chan c).ccrRead } u) := by
    have hstep := h.advance (k := .q1) (k' := some .q2) (t := t) (u := u) (x := u.chan c)
      (t' := { t with v := (u.chan c).ccrRead })
      (by rw [disarmStep_q1, ← h.chan .q1 t u, setChan_chan_self])
    rwa [setChan_chan_self] at hstep
  rw [repeatOut_succ_of_next hfirst, repeatOut_succ_of_next (h.disarm_q2 rfl)]
  rfl

theorem dmaRun_dmaAt (s : State) (pos : DmaPos) (t : Temps) :
    dmaRun (s.dmaAt pos t) = dmaStep pos t (s.dmaAt pos t) := rfl

section
variable {s : State} (t : Temps)

/-- `d1`: the transmit completion is tested first (R262, R263). -/
theorem dmaRun_d1 (hp : s.params.Wf) :
    dmaRun (s.dmaAt .d1 t) =
      .next (s.dmaAt (if s.tx.tcif then .d2 else .d5) { t with s := s.dmaIsr }) := by
  rw [dmaRun_dmaAt, dmaStep, getLsbD_dmaIsr_tcBit (s := s.dmaAt .d1 t) hp .tx]
  rfl

/-- `d5`: the receive completion is tested afresh (R262, R265). -/
theorem dmaRun_d5 (hp : s.params.Wf) :
    dmaRun (s.dmaAt .d5 t) =
      .next (s.dmaAt (if s.rx.tcif then .d6 else .ret) { t with s := s.dmaIsr }) := by
  rw [dmaRun_dmaAt, dmaStep, getLsbD_dmaIsr_tcBit (s := s.dmaAt .d5 t) hp .rx]
  rfl

theorem dmaRun_d2 (hp : s.params.Wf) :
    dmaRun (s.dmaAt .d2 t) =
      .next ({ s with tx := { s.tx with tcif := false } }.dmaAt
        (if s.params.echoPolicy = EchoPolicy.cooperative then .d3 else .d4 .q1) t) := by
  rw [dmaRun_dmaAt, dmaStep, wrDmaIfcr_own_bit (s := s.dmaAt .d2 t) hp .tx]
  rfl

theorem dmaRun_d6 (hp : s.params.Wf) :
    dmaRun (s.dmaAt .d6 t) =
      .next ({ s with rx := { s.rx with tcif := false } }.dmaAt
        (if s.params.echoPolicy = EchoPolicy.cooperative then .coop7 else .auto7) t) := by
  rw [dmaRun_dmaAt, dmaStep, wrDmaIfcr_own_bit (s := s.dmaAt .d6 t) hp .rx]
  rfl

theorem dmaRun_d3 :
    dmaRun (s.dmaAt .d3 t) = .next ({ s with txDone := true }.dmaAt (.d4 .q1) t) := rfl

theorem dmaRun_coop7 :
    dmaRun (s.dmaAt .coop7 t) = .next ({ s with rxComplete := true }.dmaAt (.coop8 .a1) t) := rfl

theorem dmaRun_auto7 {b : Byte} (hr : s.params.inRam s.params.rxCellAddr)
    (hb : s.byteAt s.params.rxCellAddr = some b) :
    dmaRun (s.dmaAt .auto7 t) = .next (s.dmaAt .auto8 { t with b := b }) := by
  rw [dmaRun_dmaAt, dmaStep, dmaAt_params, memRead8_of_byte (s := s.dmaAt .auto7 t) hr hb]
  rfl

theorem dmaRun_auto8 (hr : s.params.inRam s.params.txCellAddr) :
    dmaRun (s.dmaAt .auto8 t) =
      .next ({ s with mem := Memory.set s.mem s.params.txCellAddr.toNat t.b }.dmaAt
        (.auto9 .a1) t) := by
  rw [dmaRun_dmaAt, dmaStep, dmaAt_params, memWrite8_of_inRam (s := s.dmaAt .auto8 t) t.b hr]
  rfl

theorem dmaRun_ret : dmaRun (s.dmaAt .ret t) = .next { s with hDma := .inactive } := rfl

end

/-- `d4` (R189, R264). -/
theorem runs_d4 : Runs .tx (disarmStep .tx) dmaRun (dmaPut .d4 .d5) := runs_dma fun _ _ _ => rfl

/-- `d8` of the cooperative variant (R266). -/
theorem runs_coop8 : Runs .rx (armStep .rx) dmaRun (dmaPut .coop8 .ret) :=
  runs_dma fun _ _ _ => rfl

/-- `d9` of the autonomous variant (R267). -/
theorem runs_auto9 : Runs .tx (armStep .tx) dmaRun (dmaPut .auto9 (.auto10 .a1)) :=
  runs_dma fun _ _ _ => rfl

/-- `d10` of the autonomous variant (R267). -/
theorem runs_auto10 : Runs .rx (armStep .rx) dmaRun (dmaPut .auto10 .ret) :=
  runs_dma fun _ _ _ => rfl

/-! ## The branches of `H_DMA` (R262 to R267) -/

/-- What serving a transmit completion leaves: the flag cleared and the channel disabled, and
`txDone` set in the cooperative variant (R264). -/
def State.servedTx (s : State) : State :=
  { s with
    tx := { s.tx with ccr := s.tx.ccr &&& 0x3012#32, tcif := false }
    txDone := s.txDone || decide (s.params.echoPolicy = .cooperative) }

section
variable {s : State} (t : Temps)

theorem dmaRun_d1_of_clear (hp : s.params.Wf) (h : s.tx.tcif = false) :
    dmaRun (s.dmaAt .d1 t) = .next (s.dmaAt .d5 { t with s := s.dmaIsr }) := by
  rw [dmaRun_d1 t hp, h]
  rfl

/-- `d4` is `DISARM(TX)`, in two steps (R189, R264). -/
theorem dmaRun_from_d4 :
    repeatOut dmaRun 2 (s.dmaAt (.d4 .q1) t) =
      .next ({ s with tx := { s.tx with ccr := s.tx.ccr &&& 0x3012#32 } }.dmaAt .d5
        { t with v := s.tx.ccrRead }) := by
  have hrun := runs_d4.disarm t s
  rwa [disarm_eq] at hrun

/-- The transmit branch, from `d1` to `d5` (R264): `d3` exists in the cooperative variant only. -/
theorem dmaRun_from_d1_of_set (hp : s.params.Wf) (h : s.tx.tcif = true) :
    repeatOut dmaRun (if s.params.echoPolicy = .cooperative then 5 else 4) (s.dmaAt .d1 t) =
      .next (s.servedTx.dmaAt .d5 { t with s := s.dmaIsr, v := s.tx.ccrRead }) := by
  have hd1 := dmaRun_d1 t hp
  have hd2 := dmaRun_d2 { t with s := s.dmaIsr } hp
  rw [h, if_pos rfl] at hd1
  split_ifs at hd2 ⊢ with hv
  · rw [repeatOut_succ_of_next hd1, repeatOut_succ_of_next hd2,
      repeatOut_succ_of_next (dmaRun_d3 _), dmaRun_from_d4, State.servedTx, decide_eq_true hv,
      Bool.or_true]
    rfl
  · rw [repeatOut_succ_of_next hd1, repeatOut_succ_of_next hd2, dmaRun_from_d4, State.servedTx,
      decide_eq_false hv, Bool.or_false]
    rfl

/-- With no receive completion `d5` is the last step before `ret`. -/
theorem dmaRun_from_d5_of_clear (hp : s.params.Wf) (h : s.rx.tcif = false) :
    repeatOut dmaRun 2 (s.dmaAt .d5 t) = .next { s with hDma := .inactive } := by
  have hd5 := dmaRun_d5 t hp
  rw [h] at hd5
  exact (repeatOut_succ_of_next hd5 1).trans (repeatOut_succ_of_next (dmaRun_ret _) 0)

/-- The receive branch of the cooperative variant, from `d5` to `ret` (R266). -/
theorem dmaRun_from_d5_cooperative (hp : s.params.Wf) (hv : s.params.echoPolicy = .cooperative)
    (h : s.rx.tcif = true) :
    repeatOut dmaRun 11 (s.dmaAt .d5 t) = .next { s with
      rx := { s.rx with tcif := false }.arm s.params .rx
      rxComplete := true
      hDma := .inactive } := by
  have hd5 := dmaRun_d5 t hp
  have hd6 := dmaRun_d6 { t with s := s.dmaIsr } hp
  rw [h, if_pos rfl] at hd5
  rw [hv, if_pos rfl] at hd6
  rw [repeatOut_succ_of_next hd5, repeatOut_succ_of_next hd6,
    repeatOut_succ_of_next (dmaRun_coop7 _)]
  exact (repeatOut_add_of_next (runs_coop8.arm _ _) 1).trans
    (repeatOut_succ_of_next (dmaRun_ret _) 0)

/-- The hand-over of the autonomous variant, from `d7` to `ret`: the byte in `rxCell` is copied to
`txCell` and both channels are armed, the receive channel last (R267). -/
theorem dmaRun_from_auto7 {b : Byte} (hrxCell : s.params.inRam s.params.rxCellAddr)
    (htxCell : s.params.inRam s.params.txCellAddr) (hb : s.byteAt s.params.rxCellAddr = some b) :
    repeatOut dmaRun 17 (s.dmaAt .auto7 t) = .next { s with
      rx := s.rx.arm s.params .rx
      tx := s.tx.arm s.params .tx
      mem := Memory.set s.mem s.params.txCellAddr.toNat b
      hDma := .inactive } := by
  rw [repeatOut_succ_of_next (dmaRun_auto7 t hrxCell hb),
    repeatOut_succ_of_next (dmaRun_auto8 _ htxCell)]
  calc
    _ = repeatOut dmaRun 8 _ := repeatOut_add_of_next (runs_auto9.arm _ _) 8
    _ = repeatOut dmaRun 1 _ := repeatOut_add_of_next (runs_auto10.arm _ _) 1
    _ = _ := repeatOut_succ_of_next (dmaRun_ret _) 0

/-- The receive branch of the autonomous variant, from `d5` to `ret` (R267). -/
theorem dmaRun_from_d5_autonomous {b : Byte} (hp : s.params.Wf)
    (hv : s.params.echoPolicy = .autonomous) (h : s.rx.tcif = true)
    (hb : s.byteAt s.params.rxCellAddr = some b) :
    repeatOut dmaRun 19 (s.dmaAt .d5 t) = .next { s with
      rx := { s.rx with tcif := false }.arm s.params .rx
      tx := s.tx.arm s.params .tx
      mem := Memory.set s.mem s.params.txCellAddr.toNat b
      hDma := .inactive } := by
  have hcell := Params.inRam_cellAddr hp
  have hd5 := dmaRun_d5 t hp
  have hd6 := dmaRun_d6 { t with s := s.dmaIsr } hp
  rw [h, if_pos rfl] at hd5
  rw [hv, if_neg (by decide)] at hd6
  rw [repeatOut_succ_of_next hd5, repeatOut_succ_of_next hd6]
  exact dmaRun_from_auto7 (s := { s with rx := { s.rx with tcif := false } }) _ (hcell .rx)
    (hcell .tx) hb

end

/-- Settles O44: the transmit branch, and `d5` as it finds the receive completion. -/
theorem handlerServesTransmit : Obligations.HandlerServesTransmit := by
  intro s t hp
  have hbranch := dmaRun_from_d1_of_set (s := s) t hp
  refine ⟨fun hd htx hrx => ?_, fun hd htx hrx => ?_, fun hd htx hrx => ?_, fun hd => ?_⟩
  · have hsteps : (if s.params.echoPolicy = .cooperative then 7 else 6) =
        (if s.params.echoPolicy = .cooperative then 5 else 4) + 2 := by split <;> rfl
    have hrun := repeatOut_add_of_next (hbranch htx) 2
    rw [dmaAt_self hd] at hrun
    rw [hsteps, hrun]
    exact dmaRun_from_d5_of_clear (s := s.servedTx) _ hp hrx
  · have hrun := hbranch htx
    rw [dmaAt_self hd] at hrun
    exact ⟨_, hrun⟩
  · have hrun := repeatOut_succ_of_next (dmaRun_d1_of_clear t hp htx) 2
    rw [dmaAt_self hd] at hrun
    rw [hrun, dmaRun_from_d5_of_clear _ hp hrx]
  · have hrun := dmaRun_d5 t hp
    rw [dmaAt_self hd] at hrun
    exact ⟨_, hrun⟩

/-- Settles O45: straight to `d5`, or through the transmit branch. -/
theorem handlerServesReceiveCooperative : Obligations.HandlerServesReceiveCooperative := by
  intro s t hp hv hd hrx
  refine ⟨fun htx => ?_, fun htx => ?_⟩
  · have hrun := repeatOut_succ_of_next (dmaRun_d1_of_clear t hp htx) 11
    rw [dmaAt_self hd, dmaRun_from_d5_cooperative _ hp hv hrx] at hrun
    exact hrun
  · have hbranch := dmaRun_from_d1_of_set t hp htx
    rw [if_pos hv, dmaAt_self hd] at hbranch
    rw [repeatOut_add_of_next hbranch 11,
      dmaRun_from_d5_cooperative (s := s.servedTx) _ hp hv hrx, State.servedTx,
      decide_eq_true hv, Bool.or_true]
    rfl

/-- Settles O46: straight to `d5`, or through the transmit branch, after which `ARM(TX)` finds the
channel disabled. -/
theorem handlerServesReceiveAutonomous : Obligations.HandlerServesReceiveAutonomous := by
  intro s t b hp hv hd hrx hb
  have hnc : ¬ s.params.echoPolicy = .cooperative := by rw [hv]; decide
  refine ⟨_, ?_, byteAt_set_same s _ b, fun x hx => byteAt_set_other s _ x b hx⟩
  split_ifs with htx
  · have hbranch := dmaRun_from_d1_of_set t hp htx
    rw [if_neg hnc, dmaAt_self hd] at hbranch
    rw [repeatOut_add_of_next hbranch 19,
      dmaRun_from_d5_autonomous (s := s.servedTx) _ hp hv hrx hb, State.servedTx,
      decide_eq_false hnc, Bool.or_false]
    rfl
  · have hclear : s.tx.tcif = false := by simpa using htx
    have hrun := repeatOut_succ_of_next (dmaRun_d1_of_clear t hp hclear) 19
    rw [dmaAt_self hd, dmaRun_from_d5_autonomous _ hp hv hrx hb, Chan.arm, Chan.arm, hclear] at hrun
    exact hrun

/-! ## A sequence of `MAIN` inside a command -/

/-- The state with `MAIN` put where `m` says. -/
def State.withMain (m : MainCtx) (s : State) : State := { s with main := m }

/-- An idle `MAIN` gets the word of the command. -/
theorem mainAt_of_idle {s : State} (h : s.main = .idle) (i : Instr) (pos : MainPos) (t : Temps) :
    s.mainAt i pos t = s.withMain (.running (encode s.params i) pos t) := by
  rw [State.mainAt, h]
  rfl

/-- A running `MAIN` keeps its word. -/
theorem mainAt_of_running {s : State} {w : OpWord} {p : MainPos} {x : Temps}
    (h : s.main = .running w p x) (i : Instr) (pos : MainPos) (t : Temps) :
    s.mainAt i pos t = s.withMain (.running w pos t) := by
  rw [State.mainAt, h]
  rfl

/-- An update that neither reads nor changes where `MAIN` is, nor the parameters. -/
structure KeepsMain (g : State → State) : Prop where
  withMain : ∀ m u, g (u.withMain m) = (g u).withMain m
  params : ∀ u, (g u).params = u.params

theorem KeepsMain.main {g : State → State} (hg : KeepsMain g) (u : State) :
    (g u).main = u.main := by
  have h : g u = (g u).withMain u.main := hg.withMain u.main u
  rw [h]
  rfl

/-- `MAIN` moved on twice is `MAIN` moved on once, whatever is updated between. -/
theorem KeepsMain.mainAt {g : State → State} (hg : KeepsMain g) (u : State) (i : Instr)
    (pos pos' : MainPos) (t t' : Temps) :
    (g (u.mainAt i pos t)).mainAt i pos' t' = (g u).mainAt i pos' t' := by
  cases hm : u.main with
  | idle =>
    rw [mainAt_of_idle hm, hg.withMain, mainAt_of_running rfl,
      mainAt_of_idle ((hg.main u).trans hm), hg.params]
    rfl
  | running w p x =>
    rw [mainAt_of_running hm, hg.withMain, mainAt_of_running rfl,
      mainAt_of_running ((hg.main u).trans hm)]
    rfl

/-- A command ends as if `MAIN` had not moved, whatever is updated before. -/
theorem KeepsMain.endMain {g : State → State} (hg : KeepsMain g) (u : State) (i : Instr)
    (pos : MainPos) (t : Temps) (r : Result) :
    (g (u.mainAt i pos t)).endMain r = (g u).endMain r := by
  cases hm : u.main with
  | idle => rw [mainAt_of_idle hm, hg.withMain]; rfl
  | running w p x => rw [mainAt_of_running hm, hg.withMain]; rfl

/-- What the last step of a sequence makes of `MAIN` does not depend on where in the command it
was. -/
structure EndsFrom (i : Instr) (done : Temps → State → State) : Prop where
  update : ∀ {g : State → State}, KeepsMain g → ∀ u pos t t',
    done t' (g (u.mainAt i pos t)) = done t' (g u)

theorem endsFrom_mainAt (i : Instr) (pos : MainPos) :
    EndsFrom i fun t u => u.mainAt i pos t where
  update hg u pos' t t' := hg.mainAt u i pos' pos t t'

theorem endsFrom_endMain (i : Instr) (r : Temps → Result) :
    EndsFrom i fun t u => u.endMain (r t) where
  update hg u pos' t t' := hg.endMain u i pos' t (r t')

/-- Where one micro-step of a sequence inside command `i` leaves `MAIN`: at the step that follows,
or as `done` has it after the last. -/
def mainNext {κ : Type} (i : Instr) (wrap : κ → MainPos) (done : Temps → State → State) :
    Option κ → Temps → State → State
  | some k, t, s => s.mainAt i (wrap k) t
  | none, t, s => done t s

/-- `f` runs the sequence `run` in command `i`, at the positions `wrap`.  Unlike `Runs` it names the
command, so that a step of the sequence may update more than its channel (`Follows.step`). -/
def Follows {κ : Type} (i : Instr) (wrap : κ → MainPos) (done : Temps → State → State)
    (run : κ → Temps → State → Micro κ) (f : State → Out State) : Prop :=
  ∀ (k : κ) (t : Temps) (u : State), f (u.mainAt i (wrap k) t) =
    andThen (run k t (u.mainAt i (wrap k) t)) fun r =>
      .next (mainNext i wrap done r.1 r.2.1 r.2.2)

section
variable {κ : Type} {i : Instr} {wrap : κ → MainPos} {done : Temps → State → State}
  {run : κ → Temps → State → Micro κ} {f : State → Out State}

theorem mainNext_update (hdone : EndsFrom i done) {g : State → State} (hg : KeepsMain g)
    (k : Option κ) (u : State) (pos : MainPos) (t t' : Temps) :
    mainNext i wrap done k t' (g (u.mainAt i pos t)) = mainNext i wrap done k t' (g u) := by
  cases k with
  | none => exact hdone.update hg u pos t t'
  | some k => exact hg.mainAt u i pos (wrap k) t t'

/-- One micro-step that updates the state by `g`. -/
theorem Follows.step (h : Follows i wrap done run f) (hdone : EndsFrom i done) {g : State → State}
    (hg : KeepsMain g) {k : κ} {k' : Option κ} {t t' : Temps} {u : State}
    (hrun : run k t (u.mainAt i (wrap k) t) = .next (k', t', g (u.mainAt i (wrap k) t))) :
    f (u.mainAt i (wrap k) t) = .next (mainNext i wrap done k' t' (g u)) := by
  rw [h k t u, hrun, andThen_of_next]
  exact congrArg _ (mainNext_update hdone hg k' u (wrap k) t t')

theorem keepsMain_setChan (c : Role) (x : Chan) : KeepsMain (·.setChan c x) where
  withMain m u := by cases c <;> rfl
  params u := setChan_params u c x

theorem Follows.runs (h : Follows i wrap done run f) (hdone : EndsFrom i done) (c : Role) :
    Runs c run f (mainNext i wrap done) where
  micro k t u := h k t u
  params k t u := mainAt_params u i (wrap k) t
  chan k t u := by cases c <;> simp [mainNext]
  setChan k t k' t' u x := mainNext_update hdone (keepsMain_setChan c x) k' u (wrap k) t t'

end

/-! ## `STX` (R282) -/

/-- `w1` reads one flag into a temporary, and goes on unless a transmit is in flight. -/
theorem stxStep_w1 (b : Byte) (t : Temps) (s : State) :
    ∃ t' : Temps, t'.b = t.b ∧
      stxStep b .w1 t s = .next (some (if s.transmitInFlight then .w1 else .w2), t', s) := by
  rw [stxStep, State.transmitInFlight]
  cases s.params.txWaitMode with
  | flag => exact ⟨{ t with t := s.txDone }, rfl, by cases s.txDone <;> rfl⟩
  | enbit =>
    have hen : (rdCcr .tx s).getLsbD 0 = s.tx.en := by
      rw [rdCcr, getLsbD_ccrRead]
      rfl
    exact ⟨{ t with v := rdCcr .tx s }, rfl, by rw [hen]⟩

/-- The test that is built decides whether a transmit is in flight (R282). -/
theorem transmitInFlight_eq {s : State} {v : Bool}
    (hflag : s.params.txWaitMode = .flag → s.txDone = !v)
    (henbit : s.params.txWaitMode = .enbit → s.tx.ccr.getLsbD 0 = v) : s.transmitInFlight = v := by
  rw [State.transmitInFlight]
  split
  · next h => rw [hflag h, Bool.not_not]
  · next h => exact henbit h

/-- The wait of `STX`, in whatever command runs it. -/
theorem Follows.stx_w1 {i : Instr} {wrap : StxStep → MainPos} {done : Temps → State → State}
    {byte : Temps → Byte} {f : State → Out State}
    (h : Follows i wrap done (fun k t => stxStep (byte t) k t) f) (hdone : EndsFrom i done)
    (t : Temps) {u : State} (hflight : u.transmitInFlight = false) :
    ∃ t' : Temps, t'.b = t.b ∧
      f (u.mainAt i (wrap .w1) t) = .next (u.mainAt i (wrap .w2) t') := by
  obtain ⟨t', hb, hw1⟩ := stxStep_w1 (byte t) t (u.mainAt i (wrap .w1) t)
  have hidle : (u.mainAt i (wrap .w1) t).transmitInFlight = false := by
    rwa [State.transmitInFlight, mainAt_params, mainAt_txDone, mainAt_tx]
  rw [hidle] at hw1
  exact ⟨t', hb, h.step hdone (k' := some .w2) (g := id) ⟨fun _ _ => rfl, fun _ => rfl⟩ hw1⟩

/-- What `STX` with byte `b` leaves behind, `MAIN` apart. -/
def State.transmitting (b : Byte) (s : State) : State :=
  { s with
    tx := s.tx.arm s.params .tx
    mem := Memory.set s.mem s.params.txCellAddr.toNat b
    txDone := false }

/-- The steps of `STX` from `w2` on: nine, in whatever command runs them; `byte` is where that
command has the byte. -/
theorem Follows.stx_from_w2 {i : Instr} {wrap : StxStep → MainPos} {done : Temps → State → State}
    {byte : Temps → Byte} {f : State → Out State}
    (h : Follows i wrap done (fun k t => stxStep (byte t) k t) f) (hdone : EndsFrom i done)
    (t : Temps) {u : State} (hr : u.params.inRam u.params.txCellAddr) :
    repeatOut f 9 (u.mainAt i (wrap .w2) t) =
      .next (done { t with v := u.tx.ccrRead } (u.transmitting (byte t))) := by
  have hw2 : f (u.mainAt i (wrap .w2) t) =
      .next ({ u with txDone := false }.mainAt i (wrap .w3) t) :=
    h.step hdone (k' := some .w3) (g := fun v => { v with txDone := false })
      ⟨fun _ _ => rfl, fun _ => rfl⟩ rfl
  have hw3 : f ({ u with txDone := false }.mainAt i (wrap .w3) t) =
      .next ({ u with
        txDone := false
        mem := Memory.set u.mem u.params.txCellAddr.toNat (byte t) }.mainAt i (wrap (.w4 .a1))
          t) := by
    refine h.step hdone (k' := some (.w4 .a1))
      (g := fun v => { v with mem := Memory.set v.mem v.params.txCellAddr.toNat (byte t) })
      ⟨fun _ _ => rfl, fun _ => rfl⟩ ?_
    rw [stxStep, memWrite8_of_inRam _ (by rwa [mainAt_params])]
    rfl
  have harm : Follows i (fun a => wrap (.w4 a)) done (armStep .tx) f := fun a t u => by
    rw [h (.w4 a) t u]
    simp only [stxStep]
    cases armStep .tx a t (u.mainAt i (wrap (.w4 a)) t) with
    | next r =>
      obtain ⟨k, t', s'⟩ := r
      cases k <;> rfl
    | fault r => rfl
    | refused r => rfl
  rw [repeatOut_succ_of_next hw2, repeatOut_succ_of_next hw3]
  exact (harm.runs hdone .tx).arm t _

/-! ## The mainline surface in the variant that has it (R284) -/

theorem cooperativeOnly_of_cooperative {s : State} (h : s.params.echoPolicy = .cooperative)
    (o : Out State) : cooperativeOnly s o = o := by
  rw [cooperativeOnly, h]
  rfl

/-- In the cooperative variant a command of the mainline surface runs without the test of the
variant, along a whole run. -/
theorem repeatOut_of_cooperative {i : Instr} {g : State → Out State}
    (h : ∀ s, exec i s = cooperativeOnly s (g s)) {s : State}
    (hv : s.params.echoPolicy = .cooperative) (n : Nat) :
    repeatOut (exec i) n s = repeatOut g n s := by
  induction n generalizing s with
  | zero => rfl
  | succ n ih =>
    have hfirst : exec i s = g s := (h s).trans (cooperativeOnly_of_cooperative hv _)
    rw [repeatOut, repeatOut, ← hfirst]
    cases hs : exec i s with
    | next t =>
      obtain ⟨hparams, -⟩ := (exec_move hs).persist
      exact ih (hparams ▸ hv)
    | fault r => rfl
    | refused r => rfl

theorem mainStep_eq {κ : Type} (i : Instr) (wrap : κ → MainPos) (result : Temps → Result)
    (run : Temps → State → Micro κ) (s : State) :
    mainStep i wrap result run s = andThen (run s.mainTemps s) fun r =>
      .next (mainNext i wrap (fun t u => u.endMain (result t)) r.1 r.2.1 r.2.2) := by
  refine congrArg (andThen _) (funext fun r => ?_)
  obtain ⟨k, t, u⟩ := r
  cases k <;> rfl

/-- `STX` without the test of the variant. -/
def stxMicro (b : Byte) (s : State) : Out State :=
  mainStep (.stx b) .stx (fun _ => .nothing) (stxStep b (stxPos s.mainPos)) s

theorem exec_stx (b : Byte) (s : State) :
    exec (.stx b) s = cooperativeOnly s (stxMicro b s) := rfl

theorem follows_stx (b : Byte) :
    Follows (.stx b) .stx (fun _ u => u.endMain .nothing) (fun k t => stxStep b k t)
      (stxMicro b) := fun k t u => by
  rw [stxMicro, mainStep_eq, mainAt_mainPos, mainAt_mainTemps, stxPos]

/-- The wait of `STX`, at the first step or in the spin (R282, R323). -/
theorem exec_stx_w1 {s : State} (b : Byte) (hv : s.params.echoPolicy = .cooperative)
    (hpos : stxPos s.mainPos = .w1) :
    ∃ t : Temps, exec (.stx b) s =
      .next (s.mainAt (.stx b) (.stx (if s.transmitInFlight then .w1 else .w2)) t) := by
  obtain ⟨t, -, hw1⟩ := stxStep_w1 b s.mainTemps s
  rw [exec_stx, cooperativeOnly_of_cooperative hv, stxMicro, mainStep_eq, hpos, hw1]
  exact ⟨t, rfl⟩

/-- Settles O40: `w1` goes on, then `w2` to `w4`. -/
theorem startTransmitCompletes : Obligations.StartTransmitCompletes := by
  intro s b hv hpos hr hflag henbit
  obtain ⟨t, hfirst⟩ := exec_stx_w1 b hv (by rw [hpos]; rfl)
  rw [transmitInFlight_eq (v := false) hflag henbit, if_neg (by decide)] at hfirst
  refine ⟨⟨t, hfirst⟩, _, ?_, byteAt_set_same s _ b, fun x hx => byteAt_set_other s _ x b hx⟩
  rw [repeatOut_succ_of_next hfirst, repeatOut_of_cooperative (exec_stx b) (by rwa [mainAt_params]),
    (follows_stx b).stx_from_w2 (byte := fun _ => b) (endsFrom_endMain _ _) t hr]
  rfl

/-- Settles O41: `w1` goes to itself. -/
theorem startTransmitSpins : Obligations.StartTransmitSpins := by
  intro s b hv hpos hflag henbit
  have hw1 : stxPos s.mainPos = .w1 := by rcases hpos with h | h <;> rw [h] <;> rfl
  obtain ⟨t, hspin⟩ := exec_stx_w1 b hv hw1
  rw [transmitInFlight_eq (v := true) hflag henbit, if_pos rfl] at hspin
  exact ⟨t, hspin⟩

/-! ## `DAVAIL` and `READ` (R280, R281) -/

theorem readStep_m1 {s : State} {b : Byte} (t : Temps) (hr : s.params.inRam s.params.rxCellAddr)
    (hb : s.byteAt s.params.rxCellAddr = some b) :
    readStep .m1 t s = .next (some .m2, { t with b := b }, s) := by
  rw [readStep, memRead8_of_byte hr hb, andThen_of_next]

theorem readStep_m1_of_unwritten {s : State} (t : Temps)
    (hr : s.params.inRam s.params.rxCellAddr) (hb : s.byteAt s.params.rxCellAddr = none) :
    readStep .m1 t s = .fault (.unwrittenRead s.params.rxCellAddr) := by
  rw [readStep, memRead8_of_unwritten hr hb, andThen_of_fault]

/-- The first step of `READ`, in whatever command runs it. -/
theorem Follows.read_m1 {i : Instr} {wrap : ReadStep → MainPos} {done : Temps → State → State}
    {f : State → Out State} (h : Follows i wrap done readStep f) (hdone : EndsFrom i done)
    (t : Temps) {u : State} {b : Byte} (hr : u.params.inRam u.params.rxCellAddr)
    (hb : u.byteAt u.params.rxCellAddr = some b) :
    f (u.mainAt i (wrap .m1) t) = .next (u.mainAt i (wrap .m2) { t with b := b }) :=
  h.step hdone (k' := some .m2) (g := id) ⟨fun _ _ => rfl, fun _ => rfl⟩
    (readStep_m1 t (by rwa [mainAt_params]) (by rwa [mainAt_params, State.byteAt, mainAt_mem]))

/-- The last step of `READ`, in whatever command runs it. -/
theorem Follows.read_m2 {i : Instr} {wrap : ReadStep → MainPos} {done : Temps → State → State}
    {f : State → Out State} (h : Follows i wrap done readStep f) (hdone : EndsFrom i done)
    (t : Temps) (u : State) :
    f (u.mainAt i (wrap .m2) t) = .next (done t { u with rxComplete := false }) :=
  h.step hdone (k' := none) (g := fun v => { v with rxComplete := false })
    ⟨fun _ _ => rfl, fun _ => rfl⟩ rfl

/-- `READ` without the test of the variant. -/
def readMicro (s : State) : Out State :=
  mainStep .read .read (fun t => .byte t.b) (readStep (readPos s.mainPos)) s

theorem exec_read (s : State) : exec .read s = cooperativeOnly s (readMicro s) := rfl

theorem follows_read :
    Follows .read .read (fun t u => u.endMain (.byte t.b)) readStep readMicro := fun k t u => by
  rw [readMicro, mainStep_eq, mainAt_mainPos, mainAt_mainTemps, readPos]

theorem readMicro_of_first {s : State} (hpos : s.mainPos = .first) :
    readMicro s = andThen (readStep .m1 s.mainTemps s) fun r =>
      .next (mainNext .read .read (fun t u => u.endMain (.byte t.b)) r.1 r.2.1 r.2.2) := by
  rw [readMicro, mainStep_eq, hpos]
  rfl

/-- Settles O39: `DAVAIL` is one read of the flag; `READ` is `m1`, which may fault, and `m2`. -/
theorem mainlineReads : Obligations.MainlineReads := by
  intro s hv
  have hread : exec .read s = readMicro s := cooperativeOnly_of_cooperative hv _
  refine ⟨⟨rfl, cooperativeOnly_of_cooperative hv _⟩, rfl,
    fun hpos hr => ⟨fun b hb => ?_, fun hb => ?_⟩⟩
  · have hfirst : exec .read s =
        .next (s.mainAt .read (.read .m2) { s.mainTemps with b := b }) := by
      rw [hread, readMicro_of_first hpos, readStep_m1 _ hr hb]
      rfl
    refine ⟨hfirst, ?_⟩
    rw [repeatOut_succ_of_next hfirst, repeatOut_of_cooperative exec_read (by rwa [mainAt_params])]
    exact repeatOut_succ_of_next (follows_read.read_m2 (endsFrom_endMain _ _) _ s) 0
  · rw [hread, readMicro_of_first hpos, readStep_m1_of_unwritten _ hr hb, andThen_of_fault]

/-! ## `MLOOP` (R283) -/

/-- `MLOOP` without the test of the variant. -/
def mloopMicro (s : State) : Out State :=
  match s.mainPos with
  | .p2 m => andThen (readStep m s.mainTemps s) fun r =>
      .next (mainNext .mloop .p2 (fun t u => u.mainAt .mloop (.p3 .w1) t) r.1 r.2.1 r.2.2)
  | .p3 k => andThen (stxStep s.mainTemps.b k s.mainTemps s) fun r =>
      .next (mainNext .mloop .p3 (fun t u => u.mainAt .mloop .first t) r.1 r.2.1 r.2.2)
  | _ => .next (s.mainAt .mloop (if s.rxComplete then .p2 .m1 else .first)
      (davailStep s.mainTemps s))

theorem exec_mloop (s : State) : exec .mloop s = cooperativeOnly s (mloopMicro s) := by
  rw [exec, execMloop, mloopMicro]
  cases s.mainPos with
  | p2 m | p3 k =>
    refine congrArg (fun f => cooperativeOnly s (andThen _ f)) (funext fun r => ?_)
    obtain ⟨k', t, u⟩ := r
    cases k' <;> rfl
  | _ => rfl

/-- `p2` is `READ` (R283). -/
theorem follows_mloop_read :
    Follows .mloop .p2 (fun t u => u.mainAt .mloop (.p3 .w1) t) readStep mloopMicro :=
  fun k t u => by
    rw [mloopMicro, mainAt_mainPos, mainAt_mainTemps]

/-- `p3` is `STX` of the byte read (R283). -/
theorem follows_mloop_stx :
    Follows .mloop .p3 (fun t u => u.mainAt .mloop .first t) (fun k t => stxStep t.b k t)
      mloopMicro := fun k t u => by
    rw [mloopMicro, mainAt_mainPos, mainAt_mainTemps]

theorem mloopMicro_p1 {s : State} (hpos : s.mainPos = .first) :
    mloopMicro s = .next (s.mainAt .mloop (if s.rxComplete then .p2 .m1 else .first)
      { s.mainTemps with t := s.rxComplete }) := by
  rw [mloopMicro, hpos]
  rfl

/-- The part of a turn of `MLOOP` after `p1`, with a byte in `rxCell` and no transmit in flight. -/
theorem mloopMicro_from_p2 {s : State} {b : Byte} (t : Temps)
    (hb : s.byteAt s.params.rxCellAddr = some b) (hrx : s.params.inRam s.params.rxCellAddr)
    (htx : s.params.inRam s.params.txCellAddr) (hflight : s.transmitInFlight = false) :
    ∃ t' : Temps, repeatOut mloopMicro 12 (s.mainAt .mloop (.p2 .m1) t) =
      .next ({ s.transmitting b with rxComplete := false }.mainAt .mloop .first t') := by
  have hm1 := follows_mloop_read.read_m1 (endsFrom_mainAt _ _) t hrx hb
  have hm2 := follows_mloop_read.read_m2 (endsFrom_mainAt _ _) { t with b := b } s
  obtain ⟨t', hbyte, hw1⟩ := follows_mloop_stx.stx_w1 (endsFrom_mainAt _ _) { t with b := b }
    (u := { s with rxComplete := false }) hflight
  have hrest := follows_mloop_stx.stx_from_w2 (byte := fun t => t.b) (endsFrom_mainAt _ _) t'
    (u := { s with rxComplete := false }) htx
  rw [repeatOut_succ_of_next hm1, repeatOut_succ_of_next hm2, repeatOut_succ_of_next hw1, hrest,
    hbyte]
  exact ⟨_, rfl⟩

/-- Settles O42: `p1`, then `READ` and `STX` of the byte read. -/
theorem mainLoopTurn : Obligations.MainLoopTurn := by
  intro s hv hpos
  have hp1 := (exec_mloop s).trans
    ((cooperativeOnly_of_cooperative hv _).trans (mloopMicro_p1 hpos))
  refine ⟨fun hc => ?_, fun hc => ?_, fun b hc hb hrx htx hflag henbit => ?_⟩
  · rw [hp1, hc]
    rfl
  · rw [hp1, hc]
    rfl
  · obtain ⟨t, hrun⟩ := mloopMicro_from_p2 { s.mainTemps with t := s.rxComplete } hb hrx htx
      (transmitInFlight_eq (v := false) hflag henbit)
    rw [hc, if_pos rfl] at hp1
    rw [hc] at hrun
    refine ⟨t, _, ?_, byteAt_set_same s _ b, fun x hx => byteAt_set_other s _ x b hx⟩
    rw [repeatOut_succ_of_next hp1, repeatOut_of_cooperative exec_mloop (by rwa [mainAt_params]),
      hrun]
    rfl

/-! ## `INIT` (R286) -/

/-- The last part of `INIT` is `ARM(RX)` (R286). -/
theorem runs_init (baud : Word) :
    Runs .rx (armStep .rx) (exec (.init baud)) (mainPut (.init baud) .i2) :=
  runs_main fun k t u => by
    rw [exec, execInit, mainAt_mainPos]

/-- Between `CFGLINE` and `ARM(RX)`, `i1` enables the interrupt of `H_DMA` (R286). -/
theorem exec_init_i1 (baud : Word) (t : Temps) (u : State) :
    exec (.init baud) (u.mainAt (.init baud) .i1 t) =
      .next ({ u with ienDma := true }.mainAt (.init baud) (.i2 .a1) t) := by
  have hkeeps : KeepsMain fun v => { v with ienDma := true } := ⟨fun _ _ => rfl, fun _ => rfl⟩
  rw [exec, execInit, mainAt_mainPos, mainAt_mainTemps]
  exact congrArg _ (hkeeps.mainAt u (.init baud) .i1 (.i2 .a1) t t)

/-- Settles O37: `CFGLINE`, `i1` and `ARM(RX)`, one after another. -/
theorem startUpCompletes : Obligations.StartUpCompletes := by
  intro s baud hpos hb hlo hhi
  have hfits : RateFits s.params baud := ⟨hb, hlo, hhi⟩
  have hfirst : exec (.init baud) s = .next (s.mainAt (.init baud) (.cfg .c1) s.mainTemps) := by
    rw [exec_init_of_cfg (.inl hpos), hpos, cfgPos_first, cfgStep_c0_of_rateFits _ hfits,
      andThen_of_next, cfgNext]
  have hkeeps : KeepsMain (State.duringCfg baud · none) := ⟨fun _ _ => rfl, fun _ => rfl⟩
  have hcfg : repeatOut (exec (.init baud)) 9 (s.mainAt (.init baud) (.cfg .c1) s.mainTemps) =
      .next ((s.duringCfg baud none).mainAt (.init baud) .i1 { s.mainTemps with v := 0xD#32 }) := by
    refine (repeatOut_cfg_from_c1 (fun k u hk => ?_) hfits s.mainTemps).trans
      (congrArg _ (hkeeps.mainAt s _ _ _ _ _))
    rw [exec_init_of_cfg (.inr ⟨k, hk⟩), hk, cfgPos_cfg]
  refine ⟨hfirst, ?_⟩
  rw [repeatOut_succ_of_next hfirst, repeatOut_add_of_next hcfg 8,
    repeatOut_succ_of_next (exec_init_i1 baud _ _)]
  exact (runs_init baud).arm _ _

end Sys2Proof.Machine

/-!
Interrupt entry, nesting and return (spec/60_exceptions.md).  Which step of the `CPU` is taken is
said once for each line of R332, and with `LAX` where only one step is enabled; a turn of the `CPU`
is then the step so picked (`step_of_cpu`), and what a step leaves of the contexts it does not run is
read off what it runs.
-/

namespace Sys2Proof.Machine

/-! ## When an interrupt is due (R330) -/

section
variable {s : State}

theorem isActive_iff_ne_inactive {α : Type} {h : Handler α} :
    h.isActive = true ↔ h ≠ .inactive := by
  cases h <;> simp

theorem dueDma_of_raised (hirq : s.irqDma = true) (hien : s.ienDma = true)
    (hdma : s.hDma = .inactive) : s.dueDma = true := by
  simp [State.dueDma, hirq, hien, hdma]

theorem dueErr_of_raised (hirq : s.sl.irqErr = true) (hien : s.ienErr = true)
    (herr : s.hErr = .inactive) : s.dueErr = true := by
  simp [State.dueErr, hirq, hien, herr]

theorem dueDma_of_masked (h : s.irqDma = false ∨ s.ienDma = false) : s.dueDma = false := by
  rcases h with h | h <;> simp [State.dueDma, h]

theorem dueErr_of_masked (h : s.sl.irqErr = false ∨ s.ienErr = false) : s.dueErr = false := by
  rcases h with h | h <;> simp [State.dueErr, h]

theorem dueDma_of_active (h : s.hDma.isActive = true) : s.dueDma = false := by
  simp [State.dueDma, h]

theorem dueErr_of_active (h : s.hErr.isActive = true) : s.dueErr = false := by
  simp [State.dueErr, h]

/-! ## The step the `CPU` takes (R332) -/

/-- Taking a turn from the schedule changes nothing that the pick looks at. -/
theorem cpuPick_afterTurn (pick : CpuPick) : s.afterTurn.cpuPick pick = s.cpuPick pick := by
  unfold State.afterTurn
  split <;> rfl

theorem urgentPick_of_dueDma (hdue : s.dueDma = true) : s.urgentPick = some .enterDma :=
  if_pos hdue

theorem urgentPick_of_dmaActive (hact : s.hDma.isActive = true) :
    s.urgentPick = some .runDma := by
  simp [State.urgentPick, dueDma_of_active hact, hact]

theorem urgentPick_of_dueErr (hdueDma : s.dueDma = false) (hdma : s.hDma = .inactive)
    (hdue : s.dueErr = true) : s.urgentPick = some .enterErr := by
  simp [State.urgentPick, hdueDma, hdma, hdue]

theorem urgentPick_of_errActive (hdueDma : s.dueDma = false) (hdma : s.hDma = .inactive)
    (hact : s.hErr.isActive = true) : s.urgentPick = some .runErr := by
  simp [State.urgentPick, hdueDma, hdma, dueErr_of_active hact, hact]

theorem urgentPick_of_idle (hdueDma : s.dueDma = false) (hdma : s.hDma = .inactive)
    (hdueErr : s.dueErr = false) (herr : s.hErr = .inactive) (hm : s.main = .idle) :
    s.urgentPick = none := by
  simp [State.urgentPick, hdueDma, hdma, hdueErr, herr, hm]

theorem cpuPick_of_urgent (h : s.params.irqSlack = .urgent) (pick : CpuPick) :
    s.cpuPick pick = s.urgentPick :=
  if_neg (by simp [h])

/-- Nothing preempts `H_DMA`, whatever the slack and the pick (R334, log entry 11). -/
theorem cpuPick_of_dmaActive (hact : s.hDma.isActive = true) (pick : CpuPick) :
    s.cpuPick pick = some .runDma := by
  rw [State.cpuPick]
  split_ifs with hlax
  · obtain ⟨-, henabled⟩ := hlax
    cases pick with
    | runDma => rfl
    | enterDma | enterErr | runErr | runMain =>
      simp [State.laxEnabled, dueDma_of_active hact, hact] at henabled
  · exact urgentPick_of_dmaActive hact

/-- `MAIN` never steps while `H_ERR` is active, whatever the slack and the pick (R334). -/
theorem cpuPick_ne_runMain_of_errActive (hact : s.hErr.isActive = true) (pick : CpuPick) :
    s.cpuPick pick ≠ some .runMain := by
  rw [State.cpuPick]
  split_ifs with hlax
  · obtain ⟨-, henabled⟩ := hlax
    rintro ⟨⟩
    simp [State.laxEnabled, hact] at henabled
  · rw [State.urgentPick, if_pos hact]
    split_ifs <;> simp

/-! ## A turn of the `CPU` -/

/-- The `CPU` step that has been picked; with none its turn passes. -/
def cpuTake (p : Option CpuPick) (s : State) : Out State :=
  match p with
  | some .enterDma => .next (enter .dma s)
  | some .runDma => dmaRun s
  | some .enterErr => .next (enter .err s)
  | some .runErr => errRun s
  | some .runMain => mainRun s
  | none => .next s

theorem cpuStep_eq_cpuTake (pick : CpuPick) (s : State) :
    cpuStep pick s = cpuTake (s.cpuPick pick) s := by
  rw [cpuStep]
  cases s.cpuPick pick with
  | none => rfl
  | some p => cases p <;> rfl

theorem dmaRun_of_active {pos : DmaPos} {t : Temps} (h : s.hDma = .active pos t) :
    dmaRun s = dmaStep pos t s := by
  rw [dmaRun, h]

theorem errRun_of_active {pos : ErrPos} {t : Temps} (h : s.hErr = .active pos t) :
    errRun s = errStep pos t s := by
  rw [errRun, h]

/-- A word that does not decode is refused (R109). -/
theorem mainRun_of_decode_error {w : OpWord} {pos : MainPos} {t : Temps} {e : DecodeError}
    (hm : s.main = .running w pos t) (hd : decode s.params w = .error e) :
    mainRun s = .refused (refusalOf e) := by
  rw [mainRun, hm]
  simp only [hd]

end

section
variable {s : State} {pick : CpuPick} (hf : s.faultMark = none) (hr : s.refusedMark = none)
  (hturn : s.nextTurn = .cpu pick)
include hf hr hturn

/-- A turn of the `CPU` is the step that is picked, with a fault or a refusal recorded. -/
theorem step_of_cpu {p : Option CpuPick} (hpick : s.cpuPick pick = p) :
    step s = .next (record s.afterTurn (cpuTake p s.afterTurn)) := by
  rw [step_of_unmarked hf hr, hturn, agentStep, cpuStep_eq_cpuTake, cpuPick_afterTurn, hpick]

/-- An active `H_DMA` takes its next micro-step, whatever the slack. -/
theorem step_of_dmaActive {pos : DmaPos} {t : Temps} (h : s.hDma = .active pos t) :
    step s = .next (record s.afterTurn (dmaStep pos t s.afterTurn)) := by
  have hpick : s.cpuPick pick = some .runDma := cpuPick_of_dmaActive (by rw [h]; rfl) pick
  rw [step_of_cpu hf hr hturn hpick, cpuTake, dmaRun_of_active ((afterTurn_hDma s).trans h)]

/-- With `URGENT` an active `H_ERR` takes its next micro-step where `H_DMA` is neither active nor
due. -/
theorem step_of_errActive {pos : ErrPos} {t : Temps} (hu : s.params.irqSlack = .urgent)
    (hdueDma : s.dueDma = false) (hdma : s.hDma = .inactive) (h : s.hErr = .active pos t) :
    step s = .next (record s.afterTurn (errStep pos t s.afterTurn)) := by
  have hpick : s.cpuPick pick = some .runErr :=
    (cpuPick_of_urgent hu pick).trans (urgentPick_of_errActive hdueDma hdma (by rw [h]; rfl))
  rw [step_of_cpu hf hr hturn hpick, cpuTake, errRun_of_active ((afterTurn_hErr s).trans h)]

/-- A running `MAIN` takes its next micro-step where no handler is active or due, whatever the
slack. -/
theorem step_of_mainRunning {w : OpWord} {pos : MainPos} {t : Temps}
    (hm : s.main = .running w pos t) (hdma : s.hDma = .inactive) (herr : s.hErr = .inactive)
    (hdueDma : s.dueDma = false) (hdueErr : s.dueErr = false) :
    step s = .next (record s.afterTurn (mainRun s.afterTurn)) :=
  step_of_cpu hf hr hturn
    (cpuPick_of_quiet hdma herr hdueDma hdueErr (by rw [hm]; rfl) pick)

/-- The micro-step of a `MAIN` whose word decodes is `exec` of the instruction (R112, R285). -/
theorem step_of_decoded {w : OpWord} {pos : MainPos} {t : Temps} {i : Instr}
    (hm : s.main = .running w pos t) (hdma : s.hDma = .inactive) (herr : s.hErr = .inactive)
    (hdueDma : s.dueDma = false) (hdueErr : s.dueErr = false) (hd : decode s.params w = .ok i) :
    step s = .next (record s.afterTurn (exec i s.afterTurn)) := by
  rw [step_of_mainRunning hf hr hturn hm hdma herr hdueDma hdueErr,
    mainRun_of_decode ((afterTurn_main s).trans hm) (by rwa [afterTurn_params])]

end

/-! ## The order of the `CPU`'s steps, and returns -/

/-- Settles O48: each line of R332 by the step that `URGENT` picks there. -/
theorem interruptEntry : Obligations.InterruptEntry := by
  intro s pick hf hr hturn hu
  have hpick := cpuPick_of_urgent hu pick
  refine ⟨fun hirq hien hdma => ?_, fun pos t => step_of_dmaActive hf hr hturn,
    fun hmask hdma hirq hien herr => ?_,
    fun pos t hmask => step_of_errActive hf hr hturn hu (dueDma_of_masked hmask),
    fun w pos t i hmask hdma hmaskErr herr hm => ?_, fun hmask hdma hmaskErr herr hm => ?_⟩
  · exact step_of_cpu hf hr hturn
      (hpick.trans (urgentPick_of_dueDma (dueDma_of_raised hirq hien hdma)))
  · exact step_of_cpu hf hr hturn (hpick.trans
      (urgentPick_of_dueErr (dueDma_of_masked hmask) hdma (dueErr_of_raised hirq hien herr)))
  · exact step_of_decoded hf hr hturn hm hdma herr (dueDma_of_masked hmask)
      (dueErr_of_masked hmaskErr)
  · exact step_of_cpu hf hr hturn (hpick.trans
      (urgentPick_of_idle (dueDma_of_masked hmask) hdma (dueErr_of_masked hmaskErr) herr hm))

/-- Settles O49: the micro-step of either handler at `ret` is `returnFrom`. -/
theorem handlerReturn : Obligations.HandlerReturn := by
  intro s t pick hf hr hturn
  exact ⟨step_of_dmaActive hf hr hturn, fun h hdma hu hmask =>
    step_of_errActive hf hr hturn hu (dueDma_of_masked hmask) hdma h⟩

/-! ## What a `CPU` step leaves of the contexts it does not run (R334, R336) -/

/-- `MAIN` and the results it has handed over are as they were. -/
def SameMain (s t : State) : Prop := t.main = s.main ∧ t.results = s.results

/-- `H_ERR`, `MAIN` and the results are as they were. -/
def SameBelowDma (s t : State) : Prop := t.hErr = s.hErr ∧ SameMain s t

theorem SameMain.refl (s : State) : SameMain s s := ⟨rfl, rfl⟩

theorem SameBelowDma.refl (s : State) : SameBelowDma s s := ⟨rfl, .refl s⟩

theorem SameMain.of_afterTurn {s t : State} (h : SameMain s.afterTurn t) : SameMain s t := by
  simpa [SameMain] using h

theorem SameBelowDma.of_afterTurn {s t : State} (h : SameBelowDma s.afterTurn t) :
    SameBelowDma s t := by
  simpa [SameBelowDma, SameMain] using h

/-- An access moves no context. -/
theorem Access.sameBelowDma {s t : State} (h : Access s t) : SameBelowDma s t := by
  cases h <;> simp [SameBelowDma, SameMain]

theorem dmaSeq_sameBelowDma {κ : Type} {wrap : κ → DmaPos} {done : DmaPos} {m : Micro κ}
    {s t : State} (h : dmaSeq wrap done m = .next t)
    (hm : ∀ k x u, m = .next (k, x, u) → Access s u) : SameBelowDma s t := by
  obtain ⟨k, x, u, hu, rfl⟩ := dmaSeq_next h
  cases k <;> exact (hm _ _ u hu).sameBelowDma

/-- A micro-step of `H_DMA` leaves every less urgent context. -/
theorem dmaStep_sameBelowDma {pos : DmaPos} {x : Temps} {s t : State}
    (h : dmaStep pos x s = .next t) : SameBelowDma s t := by
  cases pos
  case d4 => exact dmaSeq_sameBelowDma h fun _ _ _ => disarmStep_access
  case coop8 | auto9 | auto10 => exact dmaSeq_sameBelowDma h fun _ _ _ => armStep_access
  case auto7 =>
    obtain ⟨b, -, h'⟩ := andThen_next (h : andThen _ _ = _)
    cases h'
    exact .refl s
  case auto8 =>
    obtain ⟨u, hu, h'⟩ := andThen_next (h : andThen _ _ = _)
    cases h'
    exact (memWrite8_access hu).sameBelowDma
  all_goals cases h; exact .refl s

/-- A micro-step of `H_ERR` leaves `MAIN`. -/
theorem errStep_sameMain {pos : ErrPos} {x : Temps} {s t : State}
    (h : errStep pos x s = .next t) : SameMain s t := by
  cases pos
  all_goals cases h; exact .refl s

theorem dmaRun_sameBelowDma {s t : State} (h : dmaRun s = .next t) : SameBelowDma s t := by
  unfold dmaRun at h
  split at h
  · cases h; exact .refl s
  · exact dmaStep_sameBelowDma h

theorem errRun_sameMain {s t : State} (h : errRun s = .next t) : SameMain s t := by
  unfold errRun at h
  split at h
  · cases h; exact .refl s
  · exact errStep_sameMain h

/-- Every step of the `CPU` but that of `MAIN` leaves `MAIN`; an entry does so too (R333). -/
theorem cpuTake_sameMain {p : Option CpuPick} {s t : State} (hp : p ≠ some .runMain)
    (h : cpuTake p s = .next t) : SameMain s t := by
  cases p with
  | none => cases h; exact .refl s
  | some p =>
    cases p with
    | enterDma | enterErr => cases h; exact .refl s
    | runDma => exact (dmaRun_sameBelowDma h).2
    | runErr => exact errRun_sameMain h
    | runMain => exact absurd rfl hp

/-- What holds of every next state of an outcome, and of the state with either mark set, holds of
what the step leaves behind (R321, R322). -/
theorem record_of_outcome {P : State → Prop} {s : State} {o : Out State}
    (hnext : ∀ t, o = .next t → P t) (hfault : ∀ r, P { s with faultMark := some r })
    (hrefused : ∀ r, P { s with refusedMark := some r }) : P (record s o) := by
  cases o with
  | next t => exact hnext t rfl
  | fault r => exact hfault r
  | refused r => exact hrefused r

/-- Settles O50: an active `H_DMA` is what is run, and with `H_ERR` active `MAIN` is not. -/
theorem preemptedContextsKeepState : Obligations.PreemptedContextsKeepState := by
  intro s s' pick hturn h
  obtain ⟨hf, hr, -⟩ := step_next h
  have hs' {p : Option CpuPick} (hp : s.cpuPick pick = p) :
      s' = record s.afterTurn (cpuTake p s.afterTurn) :=
    Host.Outcome.next.inj (h.symm.trans (step_of_cpu hf hr hturn hp))
  refine ⟨fun hdma => ?_, fun herr => ?_⟩
  · rw [hs' (cpuPick_of_dmaActive (isActive_iff_ne_inactive.2 hdma) pick)]
    exact SameBelowDma.of_afterTurn <| record_of_outcome (fun _ => dmaRun_sameBelowDma)
      (fun _ => .refl _) fun _ => .refl _
  · have hpick := cpuPick_ne_runMain_of_errActive (isActive_iff_ne_inactive.2 herr) pick
    rw [hs' rfl]
    exact SameMain.of_afterTurn <| record_of_outcome (fun _ => cpuTake_sameMain hpick)
      (fun _ => .refl _) fun _ => .refl _

/-! ## The step of `MAIN`, and the end of a run (R109, R112, R321, R322) -/

/-- Settles O5: with no handler active or due the turn is `MAIN`'s. -/
theorem stepRunsDecodedInstruction : Obligations.StepRunsDecodedInstruction := by
  intro s pick w pos t i hf hr hturn hm hdma herr hdueDma hdueErr hd
  have hstep := step_of_decoded hf hr hturn hm hdma herr hdueDma hdueErr hd
  exact ⟨hstep, fun s' hexec => by rw [hstep, hexec, record]⟩

theorem step_of_faultMark {s : State} {r : Fault} (h : s.faultMark = some r) :
    step s = .fault r := by
  simp [step, machineStep, h]

theorem step_of_refusedMark {s : State} {r : Refusal} (hf : s.faultMark = none)
    (h : s.refusedMark = some r) : step s = .refused r := by
  simp [step, machineStep, hf, h]

/-- Settles O7: the turn is `MAIN`'s and its word is refused; a marked machine answers its mark. -/
theorem marksEndTheRun : Obligations.MarksEndTheRun := by
  refine ⟨fun s pick w pos t e hf hr hturn hm hdma herr hdueDma hdueErr hd => ?_,
    fun _ _ => step_of_faultMark, fun _ _ => step_of_refusedMark⟩
  rw [step_of_mainRunning hf hr hturn hm hdma herr hdueDma hdueErr,
    mainRun_of_decode_error ((afterTurn_main s).trans hm) (by rwa [afterTurn_params]), record]

/-! ## The interrupt enables (R329) -/

/-- Settles O38: each command is its one write of an enable, after which `MAIN` ends. -/
theorem enableInterruptCommands : Obligations.EnableInterruptCommands := fun s =>
  ⟨(rfl : exec .irqenDma s = .next ({ s with ienDma := true }.endMain .nothing)),
    (rfl : exec .irqenErr s = .next ({ s with ienErr := true }.endMain .nothing))⟩

end Sys2Proof.Machine

/-!
Reset and the machine before configuration (spec/70_reset_and_hazards.md section 1): the reset state
has the values of R360 and the invariant, and until it is configured every turn passes but an
arrival, whose frame is lost.
-/

namespace Sys2Proof.Machine

/-! ## The state after reset (R360) -/

theorem dmaIsr_of_no_flag {s : State} (hrx : s.rx.tcif = false) (htx : s.tx.tcif = false) :
    s.dmaIsr = 0#32 := by
  simp [State.dmaIsr, chanFlags, bitAt, hrx, htx]

theorem isr_reset : Serial.reset.isr = 0x00000080#32 := by decide

/-- Both channels are Disabled after reset, with no reserved bit set. -/
theorem ChanInv.reset (p : Params) (c : Role) : ChanInv p c .reset :=
  .of_disabled (by decide) (by decide)

theorem Inv.resetWith {p : Params} (hp : p.Wf) (frames : List Frame) :
    Inv (State.resetWith p frames) where
  params := hp
  canonical := List.Pairwise.nil
  inRam _ hx := absurd hx List.not_mem_nil
  rx := .reset p .rx
  tx := .reset p .tx
  cr1 := BitVec.zero_and
  cr3 := BitVec.zero_and
  oneMark := .inl rfl
  variant _ _ h := by cases h
  noFlags _ := ⟨rfl, rfl⟩

theorem Params.standard_wf : Params.standard.Wf := by decide

/-- Settles O52: `State.reset` is the reset state of `Params.standard`. -/
theorem resetHasInvariant : Obligations.ResetHasInvariant :=
  ⟨.resetWith Params.standard_wf [], fun _ frames hp => .resetWith hp frames⟩

/-- Settles O59: the fields as reset gives them, and the two status words read off the flags. -/
theorem resetValues : Obligations.ResetValues := by
  intro p frames
  refine ⟨fun c => ?_, dmaIsr_of_no_flag rfl rfl, rfl, rfl, rfl, isr_reset, fun _ => rfl, rfl, rfl,
    rfl, rfl, rfl, rfl, rfl, rfl, rfl, rfl, rfl⟩
  cases c <;> exact ⟨rfl, rfl, rfl, rfl, rfl⟩

/-! ## Before configuration (R361, R362) -/

/-- The machine before any configuration: the line is off, both interrupts are disabled, no handler
is active, `MAIN` is idle and the HOST has no word for it (R361). -/
structure Unconfigured (s : State) : Prop where
  off : s.sl.ue = false
  ienDma : s.ienDma = false
  ienErr : s.ienErr = false
  hDma : s.hDma = .inactive
  hErr : s.hErr = .inactive
  main : s.main = .idle
  hostWords : s.hostWords = []

/-- What a turn does to it: the wire is all that can change. -/
def OnlyWireMoves (s t : State) : Prop := t = { s with rxWire := t.rxWire }

section
variable {s : State}

theorem Unconfigured.afterTurn (h : Unconfigured s) : Unconfigured s.afterTurn := by
  constructor <;> simp [h.off, h.ienDma, h.ienErr, h.hDma, h.hErr, h.main, h.hostWords]

/-- No channel has a request while the line is off (R174). -/
theorem granted_of_off (hoff : s.sl.ue = false) (c : Role) : s.granted c = false := by
  cases c <;> simp [State.granted, State.ready, Serial.request, hoff]

theorem emitStep_of_off (hoff : s.sl.ue = false) : emitStep s = s :=
  if_neg (by simp [hoff])

/-- A frame that arrives while the line is off is lost without a flag (R228, R362). -/
theorem slrxStep_of_off (hoff : s.sl.ue = false) : OnlyWireMoves s (slrxStep s) := by
  unfold slrxStep OnlyWireMoves
  split
  · rfl
  · rw [receive_of_off (.inl hoff)]

/-- No line of R332 holds of an idle `CPU`, whatever the slack and the pick. -/
theorem cpuPick_of_idle (hdueDma : s.dueDma = false) (hdma : s.hDma = .inactive)
    (hdueErr : s.dueErr = false) (herr : s.hErr = .inactive) (hm : s.main = .idle)
    (pick : CpuPick) : s.cpuPick pick = none := by
  have hlax : s.laxEnabled pick = false := by
    cases pick <;> simp [State.laxEnabled, hdueDma, hdma, hdueErr, herr, hm]
  rw [State.cpuPick, if_neg (by simp [hlax])]
  exact urgentPick_of_idle hdueDma hdma hdueErr herr hm

/-- Before configuration every turn passes but that of `SLRX`. -/
theorem Unconfigured.agentStep (h : Unconfigured s) (turn : Turn) :
    ∃ t, agentStep turn s = .next t ∧ OnlyWireMoves s t := by
  cases turn with
  | ch c => exact ⟨s, if_neg (by simp [granted_of_off h.off c]), rfl⟩
  | slrx => exact ⟨_, rfl, slrxStep_of_off h.off⟩
  | sltx => exact ⟨_, rfl, by rw [emitStep_of_off h.off]; rfl⟩
  | cpu pick =>
    have hpick := cpuPick_of_idle (dueDma_of_masked (.inr h.ienDma)) h.hDma
      (dueErr_of_masked (.inr h.ienErr)) h.hErr h.main pick
    exact ⟨s, by rw [Machine.agentStep, cpuStep_eq_cpuTake, hpick, cpuTake], rfl⟩
  | host => exact ⟨_, rfl, by rw [hostStep_of_no_word h.hostWords]; rfl⟩

end

/-- Settles O58: the turn moves nothing but the wire, and what it does to the wire is O55. -/
theorem nothingBeforeConfiguration : Obligations.NothingBeforeConfiguration := by
  intro s s' hoff hienDma hienErr hdma herr hm hw hstep
  have hunconf : Unconfigured s := ⟨hoff, hienDma, hienErr, hdma, herr, hm, hw⟩
  obtain ⟨t, ht, hwire⟩ := hunconf.afterTurn.agentStep s.nextTurn
  obtain ⟨-, -, hs'⟩ := step_next hstep
  obtain rfl : s' = t := by rw [hs', ht, record]
  obtain ⟨hrx, -⟩ := wiresMoveByTheirOwnSteps s s' hstep
  exact ⟨hwire, hrx.imp_right fun ⟨_, hf⟩ => hf⟩

end Sys2Proof.Machine

/-!
The echo of one byte, autonomous (spec/95_test_vectors.md P1).  `H_DMA` does the same whatever turns
are listed (`dmaStep_withSched`), so a run of it is a run of the machine on turns of the `CPU`
(`repeatOut_step_invocation`); the echo is then followed turn by turn through the states `arrived`,
`received`, `handedOver`, `loaded`, `completed` and `echoed`.
-/

namespace Sys2Proof.Machine

/-! ## `H_DMA` does not look at the schedule -/

/-- The machine with the turns `l` listed in place of its own. -/
def State.withSched (l : List Turn) (s : State) : State := { s with sched := l }

theorem withSched_of_sched {s : State} {l : List Turn} (h : s.sched = l) : s.withSched l = s := by
  rw [State.withSched, ← h]

theorem andThen_of_eq_next {α β : Type} {o : Out α} {a : α} (h : o = .next a) (f : α → Out β) :
    andThen o f = f a := by
  rw [h, andThen_of_next]

section
variable {s u : State} (l : List Turn)

theorem wrCcr_withSched {c : Role} {w : Word} (h : wrCcr c w s = .next u) :
    wrCcr c w (s.withSched l) = .next (u.withSched l) := by
  obtain ⟨hr, hlive, henable, rfl⟩ := wrCcr_next h
  cases c <;> exact wrCcr_completes hr hlive henable

theorem whileDisabled_withSched {c : Role} {r : ChanReg} {x : Chan}
    (h : whileDisabled c r x s = .next u) :
    whileDisabled c r x (s.withSched l) = .next (u.withSched l) := by
  obtain ⟨he, rfl⟩ := whileDisabled_next h
  cases c <;> exact whileDisabled_of_disabled he

theorem wrCpar_withSched {c : Role} {w : Word} (h : wrCpar c w s = .next u) :
    wrCpar c w (s.withSched l) = .next (u.withSched l) := by
  cases c <;> exact whileDisabled_withSched l h

theorem wrCmar_withSched {c : Role} {w : Word} (h : wrCmar c w s = .next u) :
    wrCmar c w (s.withSched l) = .next (u.withSched l) := by
  cases c <;> exact whileDisabled_withSched l h

theorem wrCndtr_withSched {c : Role} {w : Word} (h : wrCndtr c w s = .next u) :
    wrCndtr c w (s.withSched l) = .next (u.withSched l) := by
  obtain ⟨hw, he, rfl⟩ := wrCndtr_next h
  rw [wrCndtr, if_neg (not_not.2 hw)]
  cases c <;> exact whileDisabled_of_disabled he

theorem armStep_withSched {c : Role} {a : ArmStep} {x y : Temps} {k : Option ArmStep}
    (h : armStep c a x s = .next (k, y, u)) :
    armStep c a x (s.withSched l) = .next (k, y, u.withSched l) := by
  cases a
  case a1 => cases h; cases c <;> rfl
  all_goals
    obtain ⟨v, hv, hnext⟩ := andThen_next (h : andThen _ _ = _)
    cases hnext
  case a2 | a6 | a7 => exact andThen_of_eq_next (wrCcr_withSched l hv) _
  case a3 => exact andThen_of_eq_next (wrCpar_withSched l hv) _
  case a4 => exact andThen_of_eq_next (wrCmar_withSched l hv) _
  case a5 => exact andThen_of_eq_next (wrCndtr_withSched l hv) _

theorem disarmStep_withSched {c : Role} {q : DisarmStep} {x y : Temps} {k : Option DisarmStep}
    (h : disarmStep c q x s = .next (k, y, u)) :
    disarmStep c q x (s.withSched l) = .next (k, y, u.withSched l) := by
  cases q with
  | q1 => cases h; cases c <;> rfl
  | q2 =>
    obtain ⟨v, hv, hnext⟩ := andThen_next (h : andThen _ _ = _)
    cases hnext
    exact andThen_of_eq_next (wrCcr_withSched l hv) _

theorem dmaSeq_withSched {κ : Type} {wrap : κ → DmaPos} {done : DmaPos} {run : State → Micro κ}
    (hrun : ∀ k y v, run s = .next (k, y, v) →
      run (s.withSched l) = .next (k, y, v.withSched l))
    (h : dmaSeq wrap done (run s) = .next u) :
    dmaSeq wrap done (run (s.withSched l)) = .next (u.withSched l) := by
  obtain ⟨k, y, v, hv, rfl⟩ := dmaSeq_next h
  rw [hrun k y v hv]
  cases k <;> rfl

/-- A micro-step of `H_DMA` does the same whatever turns are listed. -/
theorem dmaStep_withSched {pos : DmaPos} {x : Temps} (h : dmaStep pos x s = .next u) :
    dmaStep pos x (s.withSched l) = .next (u.withSched l) := by
  cases pos
  case d4 q =>
    exact dmaSeq_withSched (run := disarmStep .tx q x) l (fun _ _ _ => disarmStep_withSched l) h
  case coop8 a =>
    exact dmaSeq_withSched (run := armStep .rx a x) l (fun _ _ _ => armStep_withSched l) h
  case auto9 a =>
    exact dmaSeq_withSched (run := armStep .tx a x) l (fun _ _ _ => armStep_withSched l) h
  case auto10 a =>
    exact dmaSeq_withSched (run := armStep .rx a x) l (fun _ _ _ => armStep_withSched l) h
  case auto7 =>
    obtain ⟨b, hb, hnext⟩ := andThen_next (h : andThen _ _ = _)
    cases hnext
    obtain ⟨hr, hbyte⟩ := memRead8_next hb
    exact andThen_of_eq_next (memRead8_of_byte (s := s.withSched l) hr hbyte) _
  case auto8 =>
    obtain ⟨v, hv, hnext⟩ := andThen_next (h : andThen _ _ = _)
    cases hnext
    obtain ⟨hr, rfl⟩ := memWrite8_next hv
    exact andThen_of_eq_next (memWrite8_of_inRam (s := s.withSched l) x.b hr) _
  all_goals cases h; rfl

end

/-! ## `H_DMA` along the turns of the `CPU` -/

/-- No access sets a mark (R56). -/
theorem Access.marks {s t : State} (h : Access s t) :
    t.faultMark = s.faultMark ∧ t.refusedMark = s.refusedMark := by
  cases h <;> simp

/-- No step of the `CPU` that completes sets a mark (R56, R321, R322). -/
theorem CpuMove.marks {s t : State} (h : CpuMove s t) :
    t.faultMark = s.faultMark ∧ t.refusedMark = s.refusedMark := by
  cases h with
  | pass => exact ⟨rfl, rfl⟩
  | main _ _ ha | dma _ ha _ | err _ ha =>
    obtain ⟨hf, hr⟩ := ha.marks
    exact ⟨hf, hr⟩

/-- No mark is set. -/
def State.Unmarked (s : State) : Prop := s.faultMark = none ∧ s.refusedMark = none

theorem State.Unmarked.of_dmaRun {s t : State} (h : s.Unmarked) (hrun : dmaRun s = .next t) :
    t.Unmarked := by
  obtain ⟨hf, hr⟩ := (dmaRun_move hrun).marks
  exact ⟨hf.trans h.1, hr.trans h.2⟩

theorem State.Unmarked.of_repeatOut_dmaRun {n : Nat} {s t : State} (h : s.Unmarked)
    (hrun : repeatOut dmaRun n s = .next t) : t.Unmarked := by
  induction n generalizing s with
  | zero => cases hrun; exact h
  | succ n ih =>
    obtain ⟨u, hu, hrest⟩ := andThen_next (hrun : andThen _ _ = _)
    exact ih (h.of_dmaRun hu) hrest

/-- An `H_DMA` that is still active after a run was active when the run began. -/
theorem isActive_of_repeatOut_dmaRun {n : Nat} {s t : State} (h : repeatOut dmaRun n s = .next t)
    (hact : t.hDma.isActive = true) : s.hDma.isActive = true := by
  cases hd : s.hDma with
  | active pos x => rfl
  | inactive =>
    have hpass : dmaRun s = .next s := by rw [dmaRun, hd]
    have hstay : t = s := by
      induction n with
      | zero => cases h; rfl
      | succ n ih => exact ih (repeatOut_succ_of_next hpass n ▸ h)
    rw [hstay, hd] at hact
    exact hact

section
variable {s : State} (hs : s.Unmarked) (pick : CpuPick) (l : List Turn)
include hs

/-- A turn of the `CPU` while `H_DMA` is active. -/
theorem step_of_dmaRun {t : State} (hact : s.hDma.isActive = true) (h : dmaRun s = .next t) :
    step (s.withSched (.cpu pick :: l)) = .next (t.withSched l) := by
  obtain ⟨hf, hr⟩ := hs
  cases hd : s.hDma with
  | inactive => rw [hd] at hact; cases hact
  | active pos x =>
    have hstep := step_of_dmaActive (s := s.withSched (.cpu pick :: l)) hf hr rfl hd
    rw [dmaRun_of_active hd] at h
    have hafter : (s.withSched (.cpu pick :: l)).afterTurn = s.withSched l := rfl
    rw [hstep, hafter, dmaStep_withSched l h, record]

/-- A run of `H_DMA` that does not return is a run of the machine on as many turns of the `CPU`. -/
theorem repeatOut_step_of_dmaRun {n : Nat} {t : State} (h : repeatOut dmaRun n s = .next t)
    (hact : t.hDma.isActive = true) :
    repeatOut step n (s.withSched (List.replicate n (Turn.cpu pick) ++ l)) = .next (t.withSched l) := by
  induction n generalizing s with
  | zero => cases h; rfl
  | succ n ih =>
    obtain ⟨u, hu, hrest⟩ := andThen_next (h : andThen (dmaRun s) (repeatOut dmaRun n) = .next t)
    have hstep := step_of_dmaRun hs pick (List.replicate n (Turn.cpu pick) ++ l)
      (isActive_of_repeatOut_dmaRun h hact) hu
    rw [List.replicate_succ, List.cons_append, repeatOut_succ_of_next hstep]
    exact ih (hs.of_dmaRun hu) hrest

/-- A turn of the `CPU` with `URGENT` while `IRQ_DMA` is due (R332, R333). -/
theorem step_of_dueDma (hu : s.params.irqSlack = .urgent) (hdue : s.dueDma = true) :
    step (s.withSched (.cpu pick :: l)) = .next ((enter .dma s).withSched l) := by
  obtain ⟨hf, hr⟩ := hs
  have hpick : (s.withSched (.cpu pick :: l)).cpuPick pick = some .enterDma :=
    (cpuPick_of_urgent hu pick).trans (urgentPick_of_dueDma hdue)
  rw [step_of_cpu (s := s.withSched (.cpu pick :: l)) hf hr rfl hpick]
  rfl

/-- A whole invocation of `H_DMA` with `URGENT`: the entry, the run up to `ret`, and `ret`. -/
theorem repeatOut_step_invocation {n : Nat} {t : State} {x : Temps}
    (hu : s.params.irqSlack = .urgent) (hdue : s.dueDma = true)
    (h : repeatOut dmaRun n (s.dmaAt .d1 .fresh) = .next (t.dmaAt .ret x)) :
    repeatOut step (n + 2) (s.withSched (List.replicate (n + 2) (Turn.cpu pick) ++ l)) =
      .next ({ t with hDma := .inactive }.withSched l) := by
  have henter := step_of_dueDma hs pick (List.replicate n (Turn.cpu pick) ++ .cpu pick :: l) hu hdue
  have hrun := repeatOut_step_of_dmaRun (s := s.dmaAt .d1 .fresh) hs pick (.cpu pick :: l) h rfl
  have hret := step_of_dmaRun (s := t.dmaAt .ret x)
    (State.Unmarked.of_repeatOut_dmaRun (s := s.dmaAt .d1 .fresh) hs h) pick l rfl (dmaRun_ret x)
  have hturns : List.replicate (n + 2) (Turn.cpu pick) ++ l =
      .cpu pick :: (List.replicate n (Turn.cpu pick) ++ .cpu pick :: l) := by
    rw [List.replicate_succ, List.replicate_succ', List.cons_append, List.append_assoc]
    rfl
  rw [hturns, repeatOut_succ_of_next henter]
  exact (repeatOut_add_of_next hrun 1).trans (repeatOut_succ_of_next hret 0)

end

/-! ## An invocation of the autonomous `H_DMA` up to `ret` (R262, R264, R267) -/

section
variable {s : State} (t : Temps)

/-- With the transmit completion alone pending (R264). -/
theorem dmaRun_to_ret_of_transmit (hp : s.params.Wf) (hv : s.params.echoPolicy = .autonomous)
    (htx : s.tx.tcif = true) (hrx : s.rx.tcif = false) :
    ∃ x, repeatOut dmaRun 5 (s.dmaAt .d1 t) = .next ({ s with
      tx := { s.tx with ccr := s.tx.ccr &&& 0x3012#32, tcif := false } }.dmaAt .ret x) := by
  have hnc : ¬ s.params.echoPolicy = .cooperative := by rw [hv]; decide
  have hserve := dmaRun_from_d1_of_set t hp htx
  rw [if_neg hnc, State.servedTx, decide_eq_false hnc, Bool.or_false] at hserve
  have hd5 := dmaRun_d5 (s := { s with
    tx := { s.tx with ccr := s.tx.ccr &&& 0x3012#32, tcif := false } })
    { t with s := s.dmaIsr, v := s.tx.ccrRead } hp
  rw [hrx] at hd5
  exact ⟨_, (repeatOut_add_of_next hserve 1).trans (repeatOut_succ_of_next hd5 0)⟩

/-- With the receive completion alone pending (R267). -/
theorem dmaRun_to_ret_of_receive {b : Byte} (hp : s.params.Wf)
    (hv : s.params.echoPolicy = .autonomous) (htx : s.tx.tcif = false) (hrx : s.rx.tcif = true)
    (hb : s.byteAt s.params.rxCellAddr = some b) :
    ∃ x, repeatOut dmaRun 19 (s.dmaAt .d1 t) = .next ({ s with
      rx := { s.rx with tcif := false }.arm s.params .rx
      tx := s.tx.arm s.params .tx
      mem := Memory.set s.mem s.params.txCellAddr.toNat b }.dmaAt .ret x) := by
  have hcell := Params.inRam_cellAddr hp
  have hd5 := dmaRun_d5 { t with s := s.dmaIsr } hp
  have hd6 := dmaRun_d6 { t with s := s.dmaIsr } hp
  have hauto7 := dmaRun_auto7 (s := { s with rx := { s.rx with tcif := false } })
    { t with s := s.dmaIsr } (hcell .rx) hb
  have hauto8 := dmaRun_auto8 (s := { s with rx := { s.rx with tcif := false } })
    { t with s := s.dmaIsr, b := b } (hcell .tx)
  rw [hrx, if_pos rfl] at hd5
  rw [hv, if_neg (by decide)] at hd6
  rw [repeatOut_succ_of_next (dmaRun_d1_of_clear t hp htx), repeatOut_succ_of_next hd5,
    repeatOut_succ_of_next hd6, repeatOut_succ_of_next hauto7, repeatOut_succ_of_next hauto8]
  exact ⟨_, (repeatOut_add_of_next (runs_auto9.arm _ _) 7).trans (runs_auto10.arm _ _)⟩

end

/-! ## The echo, agent by agent (95_test_vectors.md P1) -/

/-- Configured for the autonomous echo and at rest, with an unmarked frame of byte `b` next on the
wire, `rest` after it. -/
structure EchoReady (b : Byte) (rest : List Frame) (s : State) : Prop where
  params : s.params.Wf
  autonomous : s.params.echoPolicy = .autonomous
  urgent : s.params.irqSlack = .urgent
  unmarked : s.Unmarked
  wire : s.rxWire = ⟨b, false, false, false⟩ :: rest
  cr1 : s.sl.cr1 = 0x0000010D#32
  cr3 : s.sl.cr3 = 0x000000C1#32
  ore : s.sl.ore = false
  rxne : s.sl.rxne = false
  txe : s.sl.txe = true
  ienDma : s.ienDma = true
  hDma : s.hDma = .inactive
  rx : s.rx = .arm s.params .rx .reset
  txOff : s.tx.en = false
  txClear : s.tx.tcif = false

/-- The memory with the byte in both cells. -/
def State.echoedMem (b : Byte) (s : State) : List Host.Cell :=
  Memory.set (Memory.set s.mem s.params.rxCellAddr.toNat b) s.params.txCellAddr.toNat b

/-- The frame has arrived. -/
def State.arrived (b : Byte) (rest : List Frame) (s : State) : State :=
  { s with
    sl := { s.sl with rdr := b, rxne := true }
    rxWire := rest }

/-- The frame has arrived and `XFER(RX)` has moved its byte to `rxCell`. -/
def State.received (b : Byte) (rest : List Frame) (s : State) : State :=
  { s with
    rx := s.rx.complete
    sl := { s.sl with rdr := b }
    mem := Memory.set s.mem s.params.rxCellAddr.toNat b
    rxWire := rest }

/-- `H_DMA` has handed the byte over: it is in `txCell`, and both channels are Armed. -/
def State.handedOver (b : Byte) (rest : List Frame) (s : State) : State :=
  { s with
    tx := s.tx.arm s.params .tx
    sl := { s.sl with rdr := b }
    mem := s.echoedMem b
    rxWire := rest }

/-- `XFER(TX)` has moved the byte to `SL_TDR`. -/
def State.loaded (b : Byte) (rest : List Frame) (s : State) : State :=
  { s with
    tx := (s.tx.arm s.params .tx).complete
    sl := { s.sl with rdr := b, tdr := b, txe := false }
    mem := s.echoedMem b
    rxWire := rest }

/-- `H_DMA` has served the completion of the transmission: the channel is disabled. -/
def State.completed (b : Byte) (rest : List Frame) (s : State) : State :=
  { s with
    tx := { (s.tx.arm s.params .tx).complete with ccr := 0x00000012#32, tcif := false }
    sl := { s.sl with rdr := b, tdr := b, txe := false }
    mem := s.echoedMem b
    rxWire := rest }

/-- The byte is on the line, and the machine is at rest again. -/
def State.echoed (b : Byte) (rest : List Frame) (s : State) : State :=
  { s with
    tx := { (s.tx.arm s.params .tx).complete with ccr := 0x00000012#32, tcif := false }
    sl := { s.sl with rdr := b, tdr := b }
    mem := s.echoedMem b
    rxWire := rest
    txLine := s.txLine ++ [b] }

/-- The turns of the echo (95_test_vectors.md P1). -/
def echoTurns (pick : CpuPick) : List Turn :=
  [Turn.slrx, Turn.ch .rx] ++ List.replicate 21 (Turn.cpu pick) ++ [Turn.ch .tx] ++
    List.replicate 7 (Turn.cpu pick) ++ [Turn.sltx]

section
variable {s : State} {l : List Turn} (hs : s.Unmarked)
include hs

/-- The turn of a granted receive channel (R178). -/
theorem step_of_granted_rx (hg : s.granted .rx = true) (hr : s.params.inRam s.rx.cmar) :
    step (s.withSched (.ch .rx :: l)) = .next ({ s with
      rx := s.rx.complete
      sl := { s.sl with rxne := false }
      mem := Memory.set s.mem s.rx.cmar.toNat s.sl.rdr }.withSched l) := by
  have hstep := step_of_granted (s := s.withSched (.ch .rx :: l)) hs.1 hs.2 rfl hg
  have hafter : (s.withSched (.ch .rx :: l)).afterTurn = s.withSched l := rfl
  rw [hstep, hafter, xfer_rx_of_inRam (s := s.withSched l) hr]
  rfl

/-- The turn of a granted transmit channel (R178). -/
theorem step_of_granted_tx {b : Byte} (hg : s.granted .tx = true)
    (hr : s.params.inRam s.tx.cmar) (hb : s.byteAt s.tx.cmar = some b) :
    step (s.withSched (.ch .tx :: l)) = .next ({ s with
      tx := s.tx.complete
      sl := { s.sl with tdr := b, txe := false } }.withSched l) := by
  have hstep := step_of_granted (s := s.withSched (.ch .tx :: l)) hs.1 hs.2 rfl hg
  have hafter : (s.withSched (.ch .tx :: l)).afterTurn = s.withSched l := rfl
  rw [hstep, hafter, xfer_tx_of_byte (s := s.withSched l) hr hb]
  rfl

end

theorem echoedMem_get_rxCell (b : Byte) {s : State} (hp : s.params.Wf) :
    Memory.get (s.echoedMem b) s.params.rxCellAddr.toNat = some b := by
  obtain ⟨-, -, -, -, -, -, -, -, -, -, hne, -⟩ := hp
  rw [State.echoedMem, Memory.get_set_other _ _ _ _ (mt BitVec.eq_of_toNat_eq hne),
    Memory.get_set_same]

theorem echoedMem_get_txCell (b : Byte) (s : State) :
    Memory.get (s.echoedMem b) s.params.txCellAddr.toNat = some b := Memory.get_set_same _ _ _

theorem echoedMem_get_other (b : Byte) (s : State) {x : Word} (hrx : x ≠ s.params.rxCellAddr)
    (htx : x ≠ s.params.txCellAddr) : Memory.get (s.echoedMem b) x.toNat = s.byteAt x := by
  rw [State.echoedMem, Memory.get_set_other _ _ _ _ (mt BitVec.eq_of_toNat_eq htx),
    Memory.get_set_other _ _ _ _ (mt BitVec.eq_of_toNat_eq hrx), State.byteAt]

section
variable {b : Byte} {rest : List Frame} {s : State} (h : EchoReady b rest s) (l : List Turn)
include h

/-- The receiver is on and takes the frame. -/
theorem EchoReady.arrival :
    step (s.withSched (.slrx :: l)) = .next ((s.arrived b rest).withSched l) := by
  have hlisten : ¬ (s.sl.ue = false ∨ s.sl.re = false) := by
    simp [Serial.ue, Serial.re, h.cr1]
  have hreceive : s.sl.receive s.params.oreBlocksRx ⟨b, false, false, false⟩ =
      { s.sl with rdr := b, rxne := true } := by
    rw [receive_of_listening hlisten (by simp [h.ore]), unmarked_flags (by simp)]
    simp [h.rxne]
  have hstep := step_of_arrival (s := s.withSched (.slrx :: l)) h.unmarked.1 h.unmarked.2 rfl
    h.wire
  rw [hstep, State.arrived, ← hreceive]
  rfl

/-- The transmit channel being off, the receive channel is granted. -/
theorem EchoReady.granted_rx : (s.arrived b rest).granted .rx = true := by
  have hready : (s.arrived b rest).ready .rx = true := by
    rw [ready_iff, armed_iff, request_iff]
    simp [State.arrived, h.rx, h.cr1, h.cr3, Chan.arm, armCfg]
  have hnotTx : (s.arrived b rest).ready .tx = false := by
    simp [State.arrived, State.ready, Chan.armed, h.txOff]
  exact granted_of_no_conflict hready (by simp [hnotTx])

/-- The transfer to `rxCell` (R178). -/
theorem EchoReady.reception :
    step ((s.arrived b rest).withSched (.ch .rx :: l)) =
      .next ((s.received b rest).withSched l) := by
  have hmar : (s.arrived b rest).rx.cmar = s.params.rxCellAddr := congrArg Chan.cmar h.rx
  have hr : (s.arrived b rest).params.inRam (s.arrived b rest).rx.cmar := by
    rw [hmar]
    exact Params.inRam_cellAddr h.params .rx
  have hempty : { s.sl with rdr := b, rxne := false } = { s.sl with rdr := b } := by rw [← h.rxne]
  rw [step_of_granted_rx (s := s.arrived b rest) h.unmarked h.granted_rx hr, hmar]
  simp only [State.arrived, State.received, hempty]

/-- The invocation of `H_DMA` for the receive completion: 21 turns (R267). -/
theorem EchoReady.handOver (pick : CpuPick) :
    repeatOut step 21 ((s.received b rest).withSched (List.replicate 21 (Turn.cpu pick) ++ l)) =
      .next ((s.handedOver b rest).withSched l) := by
  have hrearmed : { s.rx.complete with tcif := false }.arm s.params .rx = s.rx := by
    rw [h.rx]; rfl
  have hdue : (s.received b rest).dueDma = true := by
    refine dueDma_of_raised ?_ h.ienDma h.hDma
    simp [State.irqDma, State.received, Chan.complete, Chan.tcie, h.rx, Chan.arm, armCfg]
  obtain ⟨x, hrun⟩ := dmaRun_to_ret_of_receive (s := s.received b rest) .fresh h.params
    h.autonomous h.txClear rfl (byteAt_set_same s s.params.rxCellAddr b)
  have hturns := repeatOut_step_invocation (s := s.received b rest) h.unmarked pick l h.urgent hdue
    hrun
  rw [hturns]
  simp only [State.received, State.handedOver, hrearmed, State.echoedMem, ← h.hDma]

/-- The receiver being empty, the transmit channel is granted. -/
theorem EchoReady.granted_tx : (s.handedOver b rest).granted .tx = true := by
  have hready : (s.handedOver b rest).ready .tx = true := by
    rw [ready_iff, armed_iff, request_iff]
    simp [State.handedOver, h.txe, h.cr1, h.cr3, Chan.arm, armCfg]
  have hnotRx : (s.handedOver b rest).ready .rx = false := by
    simp [State.handedOver, State.ready, Serial.request, h.rxne]
  exact granted_of_no_conflict hready (by simp [hnotRx])

/-- The transfer from `txCell` (R178). -/
theorem EchoReady.loading :
    step ((s.handedOver b rest).withSched (.ch .tx :: l)) =
      .next ((s.loaded b rest).withSched l) := by
  have hmar : (s.handedOver b rest).tx.cmar = s.params.txCellAddr := rfl
  have hr : (s.handedOver b rest).params.inRam (s.handedOver b rest).tx.cmar := by
    rw [hmar]
    exact Params.inRam_cellAddr h.params .tx
  have hb : (s.handedOver b rest).byteAt (s.handedOver b rest).tx.cmar = some b :=
    echoedMem_get_txCell b s
  rw [step_of_granted_tx (s := s.handedOver b rest) h.unmarked h.granted_tx hr hb]
  rfl

/-- The invocation of `H_DMA` for the transmit completion: 7 turns (R264). -/
theorem EchoReady.completion (pick : CpuPick) :
    repeatOut step 7 ((s.loaded b rest).withSched (List.replicate 7 (Turn.cpu pick) ++ l)) =
      .next ((s.completed b rest).withSched l) := by
  have hdue : (s.loaded b rest).dueDma = true := by
    refine dueDma_of_raised ?_ h.ienDma h.hDma
    simp [State.irqDma, State.loaded, Chan.complete, Chan.tcie, Chan.arm, armCfg]
  obtain ⟨x, hrun⟩ := dmaRun_to_ret_of_transmit (s := s.loaded b rest) .fresh h.params
    h.autonomous rfl (by rw [State.loaded, h.rx]; rfl)
  have hturns := repeatOut_step_invocation (s := s.loaded b rest) h.unmarked pick l h.urgent hdue
    hrun
  have hccr : (s.loaded b rest).tx.ccr &&& 0x3012#32 = 0x00000012#32 :=
    (by decide : (armCfg .tx ||| 0x1#32) &&& 0x3012#32 = 0x00000012#32)
  rw [hturns, hccr]
  simp only [State.loaded, State.completed, ← h.hDma]

/-- The emission (R230). -/
theorem EchoReady.emission :
    step ((s.completed b rest).withSched (.sltx :: l)) = .next ((s.echoed b rest).withSched l) := by
  have hue : s.sl.cr1.getLsbD 0 = true := by rw [h.cr1]; decide
  have hte : s.sl.cr1.getLsbD 3 = true := by rw [h.cr1]; decide
  have hempty : { s.sl with rdr := b, tdr := b, txe := true } =
      { s.sl with rdr := b, tdr := b } := by rw [← h.txe]
  have hstep := emissionStep ((s.completed b rest).withSched (.sltx :: l)) h.unmarked.1
    h.unmarked.2 rfl hue hte rfl
  rw [hstep, State.echoed, ← hempty]
  rfl

/-- The whole echo: 1 + 1 + 21 + 1 + 7 + 1 turns. -/
theorem EchoReady.echo (pick : CpuPick) :
    repeatOut step 32 (s.withSched (echoTurns pick ++ l)) =
      .next ((s.echoed b rest).withSched l) := by
  simp only [echoTurns, List.append_assoc, List.cons_append, List.nil_append]
  rw [repeatOut_succ_of_next (h.arrival _), repeatOut_succ_of_next (h.reception _)]
  calc
    _ = repeatOut step 9 _ := repeatOut_add_of_next (h.handOver _ pick) 9
    _ = repeatOut step 8 _ := repeatOut_succ_of_next (h.loading _) 8
    _ = repeatOut step 1 _ := repeatOut_add_of_next (h.completion _ pick) 1
    _ = _ := repeatOut_succ_of_next (h.emission l) 0

end

/-- A receive channel that is Armed with the configuration of `ARM(RX)` is bound to its role as
`ARM(RX)` leaves it (R136, R186). -/
theorem ChanInv.eq_arm_reset {p : Params} {x : Chan} (h : ChanInv p .rx x)
    (hccr : x.ccr = 0x00000003#32) (hn : x.ndt = 1#16) (hclear : x.tcif = false) :
    x = .arm p .rx .reset := by
  obtain ⟨-, hpar, hmar⟩ := legalConfig_iff.1 (h.bound (by simp [Chan.en, hccr]))
  obtain ⟨ccr, ndt, cpar, cmar, tcif⟩ := x
  subst hccr hn hclear hpar hmar
  rfl

/-- Settles O60: the state is `EchoReady`, and the two cells hold the byte. -/
theorem autonomousEcho : Obligations.AutonomousEcho := by
  intro s b rest turns pick hinv hauto hurgent hf hr hwire hsched hcr1 hcr3 hore _ _ _ hrxne htxe
    hien hdma _ hrxCcr hrxNdt hrxClear htxOff htxClear
  have hready : EchoReady b rest s :=
    ⟨hinv.params, hauto, hurgent, ⟨hf, hr⟩, hwire, hcr1, hcr3, hore, hrxne, htxe, hien, hdma,
      hinv.rx.eq_arm_reset hrxCcr hrxNdt hrxClear, htxOff, htxClear⟩
  refine ⟨s.echoedMem b, ?_, echoedMem_get_rxCell b hinv.params, echoedMem_get_txCell b s,
    fun x hrx htx => echoedMem_get_other b s hrx htx⟩
  have hecho := hready.echo turns pick
  have hturns : s.withSched (echoTurns pick ++ turns) = s := withSched_of_sched hsched
  rw [hturns] at hecho
  rw [hecho, State.echoed, Chan.arm, Chan.complete, htxClear]
  rfl

end Sys2Proof.Machine
